-- ==== Sys2Proof/Word.lean ====
section
/-! DEFINITION. The word types of the block: bytes and 32-bit words (00_scope.md R12: every value is unsigned). -/

namespace Sys2Proof

/-- An 8-bit unsigned value, the spec's `UInt8` (00_scope.md R12). -/
abbrev Byte := BitVec 8

/-- A 32-bit unsigned value: a register, a command word, bus data (00_scope.md R11, R12). -/
abbrev Word := BitVec 32

end Sys2Proof
end

