-- ==== Sys2Proof/Config.lean ====
section
/-! DEFINITION. What the spec fixes for the block (00_scope.md R6, R7, R10; 20_memory.md R75), its open parameters
(R9) and the free byte of a PVB read while the packer runs (20_memory.md R90). -/

namespace Sys2Proof

/-! ## Frame geometry (00_scope.md R6) -/

/-- `W`: input width in pixels. -/
@[simp] abbrev Config.width : Nat := 432
/-- `H`: input height in rows, and the number of source rows. -/
@[simp] abbrev Config.height : Nat := 160
/-- `BPP`: bytes per input pixel. -/
@[simp] abbrev Config.bpp : Nat := 3
/-- `IFB_BYTES`. -/
@[simp] abbrev Config.ifbBytes : Nat := 207360
/-- `TRIPLETS`: output triplets per row. -/
@[simp] abbrev Config.triplets : Nat := 36
/-- `STRIDE_PX`: source pixels per triplet span. -/
@[simp] abbrev Config.stridePx : Nat := 12
/-- `ROWS_OUT`: output rows. -/
@[simp] abbrev Config.rowsOut : Nat := 160
/-- `ROW_BYTES`: output bytes per row. -/
@[simp] abbrev Config.rowBytes : Nat := 108
/-- `PVB_BYTES`, 17,280 by 90_conflicts.md C1, C2, C3. -/
@[simp] abbrev Config.pvbBytes : Nat := 17280

/-! ## Multiplexer parameters (00_scope.md R7) -/

/-- `GROUP_DATA`: data bytes per group; byte 9 of a group is its audio byte. -/
@[simp] abbrev Config.groupData : Nat := 9
/-- The first group that carries SyncPattern #2 (`N_SYNC1`). -/
@[simp] abbrev Config.sync2Start : Nat := 24
/-- The first group that carries SyncPattern #3 (`N_SYNC1 + N_SYNC2`). -/
@[simp] abbrev Config.sync3Start : Nat := 36
/-- The first group that carries video (`N_SYNC1 + N_SYNC2 + N_SYNC3`). -/
@[simp] abbrev Config.videoStart : Nat := 40
/-- `N_GROUPS`: groups per payload. -/
@[simp] abbrev Config.nGroups : Nat := 1960
/-- `AFB_BYTES`: audio bytes per frame. -/
@[simp] abbrev Config.afbBytes : Nat := 1960

/-! ## Decided traversal parameters (00_scope.md R10) -/

/-- Which row's index chooses the line mode. -/
inductive Config.Parity where
  | outputRow
  | sourceRow
  deriving DecidableEq, Repr

/-- `PAIR_PHASE`: which pixel of a 12-pixel span starts a triplet. -/
@[simp] abbrev Config.pairPhase : Nat := 0
/-- `MODE_PARITY`: the output row's index. -/
@[simp] abbrev Config.modeParity : Config.Parity := .outputRow

/-! ## Host address map (20_memory.md R75) -/

/-- Size of the register window, which starts at address 0. -/
@[simp] abbrev Config.regBytes : Nat := 0x100
/-- First address of the AFB window. -/
@[simp] abbrev Config.afbBase : Nat := 0x10000
/-- First address of the PVB window. -/
@[simp] abbrev Config.pvbBase : Nat := 0x20000
/-- First address of the IFB window. -/
@[simp] abbrev Config.ifbBase : Nat := 0x40000

/-! ## Open parameters and free values -/

/-- `SYNC1` (00_scope.md R9): open, no value assumed. Log 4. -/
opaque Config.sync1 : Fin 9 → Byte

/-- `SYNC2` (00_scope.md R9): open, no value assumed. Log 4. -/
opaque Config.sync2 : Fin 12 → Fin 9 → Byte

/-- The byte a host read of the PVB window returns while ENGINE = 1, one for each value of the counter `draws`:
"returns any byte: the model draws it freely" (20_memory.md R90). A free value, log 3. -/
opaque Config.pvbDraw : Nat → Byte

end Sys2Proof
end

