-- ==== Sys2Proof/Syntax.lean ====
section
/-! DEFINITION. The instructions: one constructor for each of the 21 rows of spec/opcode_table.json, the five command
words (30_encoding.md R101), the eight micro-ops (R103) and the eight host bus transactions (R105). -/

namespace Sys2Proof

/-- The operations of the block. Commands and micro-ops have no operand fields (30_encoding.md R100, R104); a bus
transaction carries the register number `ADDR[7:2]` or the offset in its buffer, and a write its data (R105). -/
inductive Instr where
  /-- Command word `0x00000000` (42_commands.md R196). -/
  | nop
  /-- Command word `0x00000001` (42_commands.md R197). -/
  | pack
  /-- Command word `0x00000002` (42_commands.md R198). -/
  | mux
  /-- Command word `0x00000003` (42_commands.md R199). -/
  | encode
  /-- Command word `0x0000000F` (42_commands.md R200). -/
  | reset
  /-- Micro-op code `0x0` (42_commands.md R201). -/
  | idle
  /-- Micro-op code `0x1` (40_pixel_packer.md R134). -/
  | packEven
  /-- Micro-op code `0x2` (40_pixel_packer.md R135). -/
  | packOdd
  /-- Micro-op code `0x8` (41_frame_multiplexer.md R162). -/
  | muxSync1
  /-- Micro-op code `0x9` (41_frame_multiplexer.md R163). -/
  | muxSync2
  /-- Micro-op code `0xA` (41_frame_multiplexer.md R164). -/
  | muxSync3
  /-- Micro-op code `0xB` (41_frame_multiplexer.md R165). -/
  | muxVideo
  /-- Micro-op code `0xC` (41_frame_multiplexer.md R166). -/
  | muxAudio
  /-- Read register number `r`, at byte offset `4 * r` (42_commands.md R191). -/
  | regRd (r : BitVec 6)
  /-- Write word `w` to register number `r`, at byte offset `4 * r` (42_commands.md R192). -/
  | regWr (r : BitVec 6) (w : Word)
  /-- Read byte `k` of AFB (42_commands.md R194). -/
  | afbRd (k : BitVec 11)
  /-- Write byte `k` of AFB (42_commands.md R193). -/
  | afbWr (k : BitVec 11) (v : Byte)
  /-- Read byte `k` of PVB (42_commands.md R194). -/
  | pvbRd (k : BitVec 15)
  /-- Write byte `k` of the PVB window, which has no effect (42_commands.md R193). -/
  | pvbWr (k : BitVec 15) (v : Byte)
  /-- Read byte `k` of IFB (42_commands.md R194). -/
  | ifbRd (k : BitVec 18)
  /-- Write byte `k` of IFB (42_commands.md R193). -/
  | ifbWr (k : BitVec 18) (v : Byte)
  deriving DecidableEq, Repr

/-- The three encoded things of 30_encoding.md: a command word, a micro-op code, and a bus descriptor with the write
data carried beside it. -/
inductive Encoded where
  | cmd (w : Word)
  | uop (c : BitVec 4)
  | bus (d : BitVec 23) (data : Word)
  deriving DecidableEq, Repr

end Sys2Proof
end

