-- ==== Sys2Proof/Machine/State.lean ====
section
/-! DEFINITION. The state of the block (10_state.md R32), of its ports and of what the outside does next, and the state
after reset (70_reset_and_hazards.md R260, R262). -/

namespace Sys2Proof.Machine

/-- STATUS.ENGINE (10_state.md R35, R41): value 3 never occurs. -/
inductive Engine where
  | idle
  | packer
  | multiplexer
  deriving DecidableEq, Repr

/-- STATUS.ERR (60_exceptions.md R220): codes 6 to 15 are never recorded. -/
inductive ErrCode where
  | none
  | illegalCmd
  | frameSize
  | noVideo
  | audioSize
  | sink
  deriving DecidableEq, Repr

/-- The sink's answer to the byte offered (20_memory.md R70). -/
inductive SinkAnswer where
  /-- The byte is delivered. -/
  | accept
  /-- The byte is not delivered (a short write). -/
  | fail
  /-- No answer yet: the multiplexer waits. -/
  | noAnswer
  /-- `out_ready` and `out_fail` together, which the model refuses (60_exceptions.md R229). -/
  | readyAndFail
  deriving DecidableEq, Repr

/-- What the outside does at a step boundary (42_commands.md R190). -/
inductive Input where
  /-- A host bus transaction: its descriptor and the write data beside it (30_encoding.md R105). -/
  | bus (d : BitVec 23) (data : Word)
  /-- `cmd OP`: the host writes a command word to CMD (30_encoding.md R109). -/
  | cmd (w : Word)
  /-- Nothing from outside: the sequencer takes its step. -/
  | turn
  /-- `rst_n` is asserted (20_memory.md R72). -/
  | rst
  deriving DecidableEq, Repr

/-- The value a host read returned (20_memory.md R71). -/
inductive HostValue where
  | word (w : Word)
  | byte (v : Byte)
  deriving DecidableEq, Repr

/-- A buffer as its written bytes, by offset, offsets strictly rising. An offset that is not listed has a clear written
mark (10_state.md R48) and holds no value. -/
abbrev Memory := List Host.Cell

/-- The sync ROM (10_state.md R52). -/
structure SyncRom where
  sync1 : Vector Byte 9
  sync2 : Vector (Vector Byte 9) 12
  sync3 : Vector Byte 9
  deriving DecidableEq, Repr

/-- Everything the spec gives the machine. -/
structure State where
  /-- STATUS.BUSY (10_state.md R36). -/
  busy : Bool
  /-- STATUS.PVB_VALID (10_state.md R37). -/
  pvbValid : Bool
  /-- STATUS.DONE (10_state.md R38). -/
  done : Bool
  /-- STATUS.OVR (10_state.md R39). -/
  ovr : Bool
  /-- STATUS.ERR (10_state.md R40). -/
  err : ErrCode
  /-- STATUS.ENGINE (10_state.md R41). -/
  engine : Engine
  /-- STATUS.CHAIN (10_state.md R57). -/
  chain : Bool
  /-- IFB_LEN.LEN (10_state.md R42). -/
  ifbLen : BitVec 18
  /-- AFB_LEN.LEN (10_state.md R43). -/
  afbLen : BitVec 11
  /-- PACK_POS.ROW (10_state.md R44). -/
  row : BitVec 8
  /-- PACK_POS.TRIP (10_state.md R44). -/
  trip : BitVec 6
  /-- MUX_POS.GROUP (10_state.md R45). -/
  group : BitVec 11
  /-- MUX_POS.BYTE (10_state.md R45). -/
  byte : BitVec 4
  /-- FRAMES.COUNT (10_state.md R47). -/
  frames : BitVec 32
  /-- IFB with its written marks (10_state.md R48, R49). -/
  ifb : Memory
  /-- PVB with its written marks (10_state.md R48, R50). -/
  pvb : Memory
  /-- AFB with its written marks (10_state.md R48, R51). -/
  afb : Memory
  /-- The sync ROM (10_state.md R52). -/
  rom : SyncRom
  /-- The byte offered to the sink and not answered yet (20_memory.md R70). -/
  offered : Option Byte
  /-- The bytes the sink has accepted, oldest first (20_memory.md R83). -/
  accepted : List Byte
  /-- The sink's coming answers; with none left it has not answered yet. -/
  sink : List SinkAnswer
  /-- What the outside does at the coming step boundaries; with nothing left the sequencer moves. -/
  inputs : List Input
  /-- The values host reads have returned, oldest first. -/
  reads : List HostValue
  /-- The model's own counter of PVB reads made while the packer ran (log 3). -/
  draws : Nat
  deriving DecidableEq, Repr

/-- How the machine stops. -/
inductive Fault where
  /-- A micro-op or a host read reads a buffer byte never written since reset (60_exceptions.md R228): raised by
  PACK_EVEN, PACK_ODD, MUX_VIDEO, MUX_AUDIO, AFB_RD, PVB_RD, IFB_RD. Safe: the hardware returns an unspecified value. -/
  | unwrittenRead
  /-- The sequencer position names a byte outside its buffer or table: raised by the PACK and MUX micro-ops in states
  outside 10_state.md R56, which no run reaches. Safe. Log 9. -/
  | badPosition
  deriving DecidableEq, Repr

/-- What the model gives no meaning to. -/
inductive Refusal where
  /-- An instruction without a meaning yet: raised by exec only. Safe. -/
  | notModelled (mnemonic : String)
  /-- HOST_UNMAPPED (60_exceptions.md R229): raised for a bus transaction outside every window. Safe. -/
  | hostUnmapped
  /-- HOST_WIDTH (60_exceptions.md R229): raised for a bus transaction with a width, an alignment or a SIZE the region
  does not take. Safe. -/
  | hostWidth
  /-- SINK_PROTOCOL (60_exceptions.md R229): raised by a MUX micro-op when the sink asserts `out_ready` and `out_fail`
  together. Safe. -/
  | sinkProtocol
  /-- A micro-op the sequencer position does not name, of which the block has no step (42_commands.md R201): raised by
  the micro-ops, and never by step. Safe. Log 8. -/
  | noSuchStep
  deriving DecidableEq, Repr

/-- The sync ROM of the block: SYNC1 and SYNC2 open, SYNC3 nine bytes of 0xFF (00_scope.md R9). -/
def SyncRom.ofConfig : SyncRom where
  sync1 := Vector.ofFn Config.sync1
  sync2 := Vector.ofFn fun r => Vector.ofFn (Config.sync2 r)
  sync3 := Vector.replicate 9 0xFF#8

/-- The state after reset, which is the power-on state (10_state.md R55; 70_reset_and_hazards.md R260, R262). The
environment's lists are empty and `draws` is 0: DESIGN CHOICE, log 1, 2, 3, 13. -/
def State.reset : State where
  busy := false
  pvbValid := false
  done := false
  ovr := false
  err := .none
  engine := .idle
  chain := false
  ifbLen := 0#18
  afbLen := 0#11
  row := 0#8
  trip := 0#6
  group := 0#11
  byte := 0#4
  frames := 0#32
  ifb := []
  pvb := []
  afb := []
  rom := SyncRom.ofConfig
  offered := none
  accepted := []
  sink := []
  inputs := []
  reads := []
  draws := 0

end Sys2Proof.Machine
end

