-- ==== Sys2Proof/Machine/Ops.lean ====
section
/-! DEFINITION. The named operations on the state: buffer bytes with their written marks, recording an error, reset, the
starts and completions of the two engines, and the host port's bookkeeping. -/

namespace Sys2Proof.Machine

/-! ## Buffers -/

/-- What an unlisted offset reads as: nothing, its written mark is clear (10_state.md R48). Log 5. -/
def Memory.unlisted : Option Byte := none

/-- Byte `a` of a buffer, if its written mark is set (10_state.md R48). -/
def Memory.read : Memory → Nat → Option Byte
  | [], _ => Memory.unlisted
  | (b, v) :: m, a => if a = b then some v else Memory.read m a

/-- `buf[a] <- v` and its written mark set (42_commands.md R193, 40_pixel_packer.md R134). -/
def Memory.write : Memory → Nat → Byte → Memory
  | [], a, v => [(a, v)]
  | (b, w) :: m, a, v =>
    if a < b then (a, v) :: (b, w) :: m
    else if a = b then (a, v) :: m
    else (b, w) :: Memory.write m a v

/-- The canonical form of a buffer of `size` bytes: offsets strictly rising, each inside the buffer. -/
abbrev Memory.wf (size : Nat) (m : Memory) : Prop :=
  m.Pairwise (fun x y => x.1 < y.1) ∧ ∀ c ∈ m, c.1 < size

/-! ## Errors: the block's only exception mechanism (60_exceptions.md R222, R230) -/

/-- `raise Error(code)` (60_exceptions.md R222): the first error since reset is kept, the engine stops. -/
def raiseError (code : ErrCode) (s : State) : State :=
  { s with
    err := if s.err = .none then code else s.err
    engine := .idle
    busy := false
    chain := false }

/-! ## Reset (70_reset_and_hazards.md R260) -/

/-- Every register to its reset value, every written mark clear, an offered byte withdrawn; the sync ROM, the bytes at
the sink and the environment as they were. -/
def resetBlock (s : State) : State :=
  { State.reset with
    rom := s.rom
    accepted := s.accepted
    sink := s.sink
    inputs := s.inputs
    reads := s.reads
    draws := s.draws }

/-! ## Engine starts and completions -/

/-- StartPack (42_commands.md R197). -/
def startPack (s : State) : State :=
  { s with pvbValid := false, chain := false, row := 0#8, trip := 0#6, engine := .packer, busy := true }

/-- StartPack with `STATUS.CHAIN <- 1` (42_commands.md R199). -/
def startEncode (s : State) : State :=
  { startPack s with chain := true }

/-- StartMux (42_commands.md R198). -/
def startMux (s : State) : State :=
  { s with group := 0#11, byte := 0#4, engine := .multiplexer, busy := true }

/-- Completion of the packer (40_pixel_packer.md R137). -/
def packComplete (s : State) : State :=
  let t := { s with pvbValid := true, ifbLen := 0#18 }
  if t.chain then startMux { t with chain := false }
  else { t with engine := .idle, busy := false, done := true }

/-- Completion of the multiplexer (41_frame_multiplexer.md R169). -/
def muxComplete (s : State) : State :=
  { s with
    afbLen := 0#11
    pvbValid := false
    frames := s.frames + 1#32
    engine := .idle
    busy := false
    done := true }

/-- Advance of the packer, as the last statement of its micro-ops (40_pixel_packer.md R136). -/
def packAdvance (s : State) : State :=
  let t :=
    if s.trip.toNat < 35 then { s with trip := s.trip + 1#6 }
    else { s with trip := 0#6, row := s.row + 1#8 }
  if t.row.toNat = Config.rowsOut then packComplete t else t

/-- Advance of the multiplexer (41_frame_multiplexer.md R168). -/
def muxAdvance (s : State) : State :=
  let t :=
    if s.byte.toNat < 9 then { s with byte := s.byte + 1#4 }
    else { s with byte := 0#4, group := s.group + 1#11 }
  if t.group.toNat = Config.nGroups then muxComplete t else t

/-! ## The sink port -/

/-- The emission step common to the MUX micro-ops (41_frame_multiplexer.md R167). Without an answer the byte stays
offered and the position where it is (20_memory.md R70). Log 2, log 7. -/
def emitStep (v : Byte) (s : State) : Host.Outcome State Fault Refusal :=
  match s.sink with
  | [] => .next { s with offered := some v }
  | .noAnswer :: rest => .next { s with offered := some v, sink := rest }
  | .accept :: rest => .next (muxAdvance { s with offered := none, accepted := s.accepted ++ [v], sink := rest })
  | .fail :: rest => .next (raiseError .sink { s with offered := none, sink := rest })
  | .readyAndFail :: _ => .refused .sinkProtocol

/-! ## The host port -/

/-- A host read returns `v` and changes nothing else (20_memory.md R79). -/
def returnRead (v : HostValue) (s : State) : State :=
  { s with reads := s.reads ++ [v] }

/-- A free byte: the draw of this state's counter, which advances (20_memory.md R90). Log 3. -/
def returnDraw (s : State) : State :=
  { s with reads := s.reads ++ [.byte (Config.pvbDraw s.draws)], draws := s.draws + 1 }

end Sys2Proof.Machine
end

