-- ==== Sys2Proof/Machine/Operands.lean ====
section
/-! DEFINITION. Operand assembly: nibbles (40_pixel_packer.md R130), the packer's operands and triplets (R131 to R135),
the multiplexer's byte selection (41_frame_multiplexer.md R161) and the micro-op the sequencer position names
(10_state.md R46). -/

namespace Sys2Proof.Machine

/-! ## Nibbles (40_pixel_packer.md R130) -/

/-- `hi(x) = x & 0xF0`. -/
def hi (x : Byte) : Byte := x &&& 0xF0#8

/-- `lo(x) = x >> 4`. -/
def lo (x : Byte) : Byte := x >>> 4

/-! ## Layouts -/

/-- `IfbOff(s, c, k)` (20_memory.md R80). -/
def ifbOff (s c k : Nat) : Nat := (s * Config.width + c) * Config.bpp + k

/-- `PvbOff(o, t, j)` (20_memory.md R81). -/
def pvbOff (o t j : Nat) : Nat := Config.rowBytes * o + 3 * t + j

/-! ## The packer's operands -/

/-- `SrcRow(o) = 159 - o` (40_pixel_packer.md R131). -/
def srcRow (o : Nat) : Nat := Config.height - 1 - o

/-- The row whose parity is the line mode (00_scope.md R10: the output row). -/
def parityRow (o : Nat) : Nat :=
  match Config.modeParity with
  | .outputRow => o
  | .sourceRow => srcRow o

/-- `LineMode(o) = EVEN` (40_pixel_packer.md R133). -/
def lineEven (o : Nat) : Bool := decide (parityRow o % 2 = 0)

/-- The six channel bytes of a triplet (40_pixel_packer.md R132). -/
structure Pixels where
  r0 : Byte
  g0 : Byte
  b0 : Byte
  r1 : Byte
  g1 : Byte
  b1 : Byte
  deriving DecidableEq, Repr

/-- The three bytes of a packed triplet (30_encoding.md R107). -/
structure Triplet where
  b0 : Byte
  b1 : Byte
  b2 : Byte
  deriving DecidableEq, Repr

/-- `a0`: the offset of pixel 0, channel R, of triplet `t` of output row `o` (40_pixel_packer.md R132). -/
def packSrc (o t : Nat) : Nat := ifbOff (srcRow o) (Config.stridePx * t + Config.pairPhase) 0

/-- The six IFB bytes `a0 .. a0+5`; none if the written mark of one is clear (40_pixel_packer.md R132, R134). -/
def readPixels (m : Memory) (a : Nat) : Option Pixels :=
  match m.read a, m.read (a + 1), m.read (a + 2), m.read (a + 3), m.read (a + 4), m.read (a + 5) with
  | some r0, some g0, some b0, some r1, some g1, some b1 => some ⟨r0, g0, b0, r1, g1, b1⟩
  | _, _, _, _, _, _ => none

/-- The EVEN packing order (40_pixel_packer.md R134). -/
def evenTriplet (p : Pixels) : Triplet where
  b0 := hi p.r0 ||| lo p.g0
  b1 := hi p.b0 ||| lo p.r1
  b2 := hi p.g1 ||| lo p.b1

/-- The ODD packing order (40_pixel_packer.md R135). -/
def oddTriplet (p : Pixels) : Triplet where
  b0 := hi p.g0 ||| lo p.b0
  b1 := hi p.r0 ||| lo p.g1
  b2 := hi p.b1 ||| lo p.r1

/-- `PVB[d .. d+2]` written with their marks (40_pixel_packer.md R134). -/
def writeTriplet (m : Memory) (d : Nat) (x : Triplet) : Memory :=
  ((m.write d x.b0).write (d + 1) x.b1).write (d + 2) x.b2

/-! ## The multiplexer's byte selection (41_frame_multiplexer.md R161) -/

/-- `SYNC2[r][j]`. -/
def sync2At (rom : SyncRom) (r j : Nat) : Option Byte :=
  match rom.sync2[r]? with
  | some slice => slice[j]?
  | none => none

/-- The PVB offset of data byte `j` of video group `i` (41_frame_multiplexer.md R165). -/
def videoOff (i j : Nat) : Nat := Config.groupData * (i - Config.videoStart) + j

/-- `MuxByte(i, j)`: the byte offered at a position, none where it is unwritten or there is no such position. -/
def muxByte (s : State) (i j : Nat) : Option Byte :=
  if Config.nGroups ≤ i ∨ 9 < j then none
  else if j = 9 then s.afb.read i
  else if i < Config.sync2Start then s.rom.sync1[j]?
  else if i < Config.sync3Start then sync2At s.rom (i - Config.sync2Start) j
  else if i < Config.videoStart then s.rom.sync3[j]?
  else s.pvb.read (videoOff i j)

/-! ## The sequencer position (10_state.md R31, R46) -/

/-- `SEQ.UOP`: the code of the micro-op the sequencer performs next (10_state.md R46, 30_encoding.md R103). -/
def seqUop (s : State) : BitVec 4 :=
  match s.engine with
  | .idle => 0x0#4
  | .packer => if lineEven s.row.toNat then 0x1#4 else 0x2#4
  | .multiplexer =>
    if s.byte.toNat = 9 then 0xC#4
    else if s.group.toNat < Config.sync2Start then 0x8#4
    else if s.group.toNat < Config.sync3Start then 0x9#4
    else if s.group.toNat < Config.videoStart then 0xA#4
    else 0xB#4

end Sys2Proof.Machine
end

