-- ==== Sys2Proof/Machine/Flags.lean ====
section
/-! DEFINITION. The STATUS flags as commands and writes change them (10_state.md R36 to R40, R54) and the words the host
reads from the registers (R33 to R47). -/

namespace Sys2Proof.Machine

/-! ## Flag writes -/

/-- A host write dropped while busy: `STATUS.OVR <- 1` (42_commands.md R202). -/
def dropWrite (s : State) : State := { s with ovr := true }

/-- `STATUS.DONE <- 0` (42_commands.md R195). -/
def clearDone (s : State) : State := { s with done := false }

/-! ## Register words -/

/-- The code of STATUS.ENGINE (10_state.md R41). -/
def engineCode : Engine → BitVec 2
  | .idle => 0#2
  | .packer => 1#2
  | .multiplexer => 2#2

/-- The code of STATUS.ERR (60_exceptions.md R220). -/
def errCode : ErrCode → BitVec 4
  | .none => 0#4
  | .illegalCmd => 1#4
  | .frameSize => 2#4
  | .noVideo => 3#4
  | .audioSize => 4#4
  | .sink => 5#4

/-- STATUS: BUSY 0, PVB_VALID 1, DONE 2, OVR 3, ERR 7:4, ENGINE 9:8, CHAIN 10 (10_state.md R35). -/
def statusWord (s : State) : Word :=
  0#21 ++ BitVec.ofBool s.chain ++ engineCode s.engine ++ errCode s.err ++ BitVec.ofBool s.ovr ++
    BitVec.ofBool s.done ++ BitVec.ofBool s.pvbValid ++ BitVec.ofBool s.busy

/-- IFB_LEN: LEN 17:0 (10_state.md R42). -/
def ifbLenWord (s : State) : Word := s.ifbLen.setWidth 32

/-- AFB_LEN: LEN 10:0 (10_state.md R43). -/
def afbLenWord (s : State) : Word := s.afbLen.setWidth 32

/-- PACK_POS: ROW 7:0, TRIP 13:8 (10_state.md R44). -/
def packPosWord (s : State) : Word := 0#18 ++ s.trip ++ s.row

/-- MUX_POS: GROUP 10:0, BYTE 15:12 (10_state.md R45). -/
def muxPosWord (s : State) : Word := 0#16 ++ s.byte ++ 0#1 ++ s.group

/-- SEQ: UOP 3:0 (10_state.md R46). -/
def seqWord (s : State) : Word := (seqUop s).setWidth 32

/-- `reg(r)` by register number, `ADDR[7:2]` (10_state.md R33, 42_commands.md R191): CMD and the reserved offsets read
0. -/
def regWord (s : State) (r : Nat) : Word :=
  match r with
  | 1 => statusWord s
  | 2 => ifbLenWord s
  | 3 => afbLenWord s
  | 4 => packPosWord s
  | 5 => muxPosWord s
  | 6 => seqWord s
  | 7 => s.frames
  | _ => 0#32

end Sys2Proof.Machine
end

