-- ==== Sys2Proof/Machine/Commands.lean ====
section
/-! DEFINITION. The commands (42_commands.md R195 to R200) and the checks they make (60_exceptions.md R225). -/

namespace Sys2Proof.Machine

/-- The commands that CommandChecks checks (60_exceptions.md R225). -/
inductive CheckedOp where
  | pack
  | mux
  | encode
  deriving DecidableEq, Repr

/-- What CommandChecks finds. -/
inductive CheckResult where
  /-- `return true`. -/
  | pass
  /-- `raise Error(code)`; `return false`. -/
  | raise (code : ErrCode)
  /-- ERR is nonzero: `return false` and no new error (60_exceptions.md R223). -/
  | sticky
  deriving DecidableEq, Repr

/-- CommandChecks(op): the first check that applies decides (60_exceptions.md R225). -/
def commandChecks (op : CheckedOp) (s : State) : CheckResult :=
  if s.err ≠ .none then .sticky
  else if (op = .pack ∨ op = .encode) ∧ s.ifbLen.toNat ≠ Config.ifbBytes then .raise .frameSize
  else if op = .mux ∧ s.pvbValid = false then .raise .noVideo
  else if (op = .mux ∨ op = .encode) ∧ s.afbLen.toNat ≠ Config.afbBytes then .raise .audioSize
  else .pass

/-- A checked command: its start if the checks pass (42_commands.md R197, R198, R199). -/
def checkedStart (op : CheckedOp) (start : State → State) (s : State) : State :=
  match commandChecks op s with
  | .pass => start s
  | .raise code => raiseError code s
  | .sticky => s

/-- The write of a command word other than NOP and RESET: dropped while busy, else DONE is cleared and the command runs
(42_commands.md R195, R202). -/
def issueCommand (body : State → State) (s : State) : State :=
  if s.busy then dropWrite s else body (clearDone s)

/-- The words of 42_commands.md R195 after NOP and RESET: PACK, MUX, ENCODE, or illegal (30_encoding.md R102). -/
def commandBody (w : Word) (s : State) : State :=
  if w = 0x00000001#32 then checkedStart .pack startPack s
  else if w = 0x00000002#32 then checkedStart .mux startMux s
  else if w = 0x00000003#32 then checkedStart .encode startEncode s
  else raiseError .illegalCmd s

/-- CommandWrite(w) (42_commands.md R195): NOP and RESET are taken whatever BUSY is. -/
def commandWrite (w : Word) (s : State) : State :=
  if w = 0x00000000#32 then s
  else if w = 0x0000000F#32 then resetBlock s
  else issueCommand (commandBody w) s

/-! ## The meanings -/

/-- NOP (42_commands.md R196): no effect, whatever BUSY is. -/
def execNop (s : State) : Host.Outcome State Fault Refusal := .next s

/-- PACK (42_commands.md R195, R197). -/
def execPack (s : State) : Host.Outcome State Fault Refusal :=
  .next (issueCommand (checkedStart .pack startPack) s)

/-- MUX (42_commands.md R195, R198). -/
def execMux (s : State) : Host.Outcome State Fault Refusal :=
  .next (issueCommand (checkedStart .mux startMux) s)

/-- ENCODE (42_commands.md R195, R199). -/
def execEncode (s : State) : Host.Outcome State Fault Refusal :=
  .next (issueCommand (checkedStart .encode startEncode) s)

/-- RESET (42_commands.md R200): accepted whatever BUSY and ERR are. -/
def execReset (s : State) : Host.Outcome State Fault Refusal := .next (resetBlock s)

end Sys2Proof.Machine
end

