-- ==== Sys2Proof/Machine/HostAccess.lean ====
section
/-! DEFINITION. The host bus transactions (42_commands.md R191 to R194, R202). -/

namespace Sys2Proof.Machine

/-- The stores of a REG_WR that is not dropped, by register number: CMD, IFB_LEN, AFB_LEN; every other register ignores
it (42_commands.md R192, 10_state.md R53). -/
def storeRegister (r : Nat) (w : Word) (s : State) : State :=
  match r with
  | 0 => commandWrite w s
  | 2 => { s with ifbLen := w.extractLsb' 0 18 }
  | 3 => { s with afbLen := w.extractLsb' 0 11 }
  | _ => s

/-- REG_WR (42_commands.md R192): while busy dropped, but for NOP and RESET written to CMD. -/
def registerWrite (r : Nat) (w : Word) (s : State) : State :=
  if s.busy ∧ ¬ (r = 0 ∧ (w = 0x00000000#32 ∨ w = 0x0000000F#32)) then dropWrite s else storeRegister r w s

/-- A buffer byte write: dropped while busy (42_commands.md R193, R202). -/
def bufferWrite (store : State → State) (s : State) : State :=
  if s.busy then dropWrite s else store s

/-- A buffer byte read (42_commands.md R194): a clear written mark faults. -/
def bufferRead (v : Option Byte) (s : State) : Host.Outcome State Fault Refusal :=
  match v with
  | some b => .next (returnRead (.byte b) s)
  | none => .fault .unwrittenRead

/-! ## The meanings -/

/-- REG_RD (42_commands.md R191). -/
def execRegRd (r : BitVec 6) (s : State) : Host.Outcome State Fault Refusal :=
  .next (returnRead (.word (regWord s r.toNat)) s)

/-- REG_WR (42_commands.md R192). -/
def execRegWr (r : BitVec 6) (w : Word) (s : State) : Host.Outcome State Fault Refusal :=
  .next (registerWrite r.toNat w s)

/-- AFB_RD (42_commands.md R194); an offset past the buffer is unmapped (20_memory.md R76). -/
def execAfbRd (k : BitVec 11) (s : State) : Host.Outcome State Fault Refusal :=
  if k.toNat < Config.afbBytes then bufferRead (s.afb.read k.toNat) s else .refused .hostUnmapped

/-- AFB_WR (42_commands.md R193). -/
def execAfbWr (k : BitVec 11) (v : Byte) (s : State) : Host.Outcome State Fault Refusal :=
  if k.toNat < Config.afbBytes then .next (bufferWrite (fun t => { t with afb := t.afb.write k.toNat v }) s)
  else .refused .hostUnmapped

/-- PVB_RD (42_commands.md R194): any byte while ENGINE = 1 (20_memory.md R90). -/
def execPvbRd (k : BitVec 15) (s : State) : Host.Outcome State Fault Refusal :=
  if k.toNat < Config.pvbBytes then
    if s.engine = .packer then .next (returnDraw s) else bufferRead (s.pvb.read k.toNat) s
  else .refused .hostUnmapped

/-- PVB_WR (42_commands.md R193): no effect on PVB, OVR while busy (20_memory.md R77). -/
def execPvbWr (k : BitVec 15) (_v : Byte) (s : State) : Host.Outcome State Fault Refusal :=
  if k.toNat < Config.pvbBytes then .next (bufferWrite (fun t => t) s) else .refused .hostUnmapped

/-- IFB_RD (42_commands.md R194). -/
def execIfbRd (k : BitVec 18) (s : State) : Host.Outcome State Fault Refusal :=
  if k.toNat < Config.ifbBytes then bufferRead (s.ifb.read k.toNat) s else .refused .hostUnmapped

/-- IFB_WR (42_commands.md R193). -/
def execIfbWr (k : BitVec 18) (v : Byte) (s : State) : Host.Outcome State Fault Refusal :=
  if k.toNat < Config.ifbBytes then .next (bufferWrite (fun t => { t with ifb := t.ifb.write k.toNat v }) s)
  else .refused .hostUnmapped

end Sys2Proof.Machine
end

