-- ==== Sys2Proof/Machine/Multiplexer.lean ====
section
/-! DEFINITION. The multiplexer engine's micro-ops (41_frame_multiplexer.md R162 to R166). Each selects its own byte and
ends with the emission step (R167). -/

namespace Sys2Proof.Machine

/-- Emit a byte of the sync ROM, which is always defined at a position of the schedule (41_frame_multiplexer.md R162). -/
def emitRom (v : Option Byte) (s : State) : Host.Outcome State Fault Refusal :=
  match v with
  | some b => emitStep b s
  | none => .fault .badPosition

/-- Emit a buffer byte: a clear written mark faults before any byte is offered (60_exceptions.md R226, R228). -/
def emitBuffer (v : Option Byte) (s : State) : Host.Outcome State Fault Refusal :=
  match v with
  | some b => emitStep b s
  | none => .fault .unwrittenRead

/-- MUX_SYNC1 (41_frame_multiplexer.md R162): `SYNC1[j]`. -/
def execMuxSync1 (s : State) : Host.Outcome State Fault Refusal :=
  if seqUop s = 0x8#4 then emitRom s.rom.sync1[s.byte.toNat]? s else .refused .noSuchStep

/-- MUX_SYNC2 (41_frame_multiplexer.md R163): `SYNC2[i - 24][j]`. -/
def execMuxSync2 (s : State) : Host.Outcome State Fault Refusal :=
  if seqUop s = 0x9#4 then emitRom (sync2At s.rom (s.group.toNat - Config.sync2Start) s.byte.toNat) s
  else .refused .noSuchStep

/-- MUX_SYNC3 (41_frame_multiplexer.md R164): `SYNC3[j]`, which the ROM holds as 0xFF. Log 16. -/
def execMuxSync3 (s : State) : Host.Outcome State Fault Refusal :=
  if seqUop s = 0xA#4 then emitRom s.rom.sync3[s.byte.toNat]? s else .refused .noSuchStep

/-- MUX_VIDEO (41_frame_multiplexer.md R165): `PVB[9*(i - 40) + j]`. -/
def execMuxVideo (s : State) : Host.Outcome State Fault Refusal :=
  if seqUop s = 0xB#4 then
    if s.group.toNat < Config.nGroups ∧ s.byte.toNat < Config.groupData then
      emitBuffer (s.pvb.read (videoOff s.group.toNat s.byte.toNat)) s
    else .fault .badPosition
  else .refused .noSuchStep

/-- MUX_AUDIO (41_frame_multiplexer.md R166): `AFB[i]`. -/
def execMuxAudio (s : State) : Host.Outcome State Fault Refusal :=
  if seqUop s = 0xC#4 then
    if s.group.toNat < Config.nGroups then emitBuffer (s.afb.read s.group.toNat) s else .fault .badPosition
  else .refused .noSuchStep

end Sys2Proof.Machine
end

