-- ==== Sys2Proof/Machine/Packer.lean ====
section
/-! DEFINITION. The packer engine's micro-ops (40_pixel_packer.md R134, R135). -/

namespace Sys2Proof.Machine

/-- One packed triplet in the order `order`: read the six bytes, write the three, advance (40_pixel_packer.md R132, R134
to R136). An unwritten source byte faults before anything is written (60_exceptions.md R228). -/
def packTriplet (order : Pixels → Triplet) (s : State) : Host.Outcome State Fault Refusal :=
  if s.row.toNat < Config.rowsOut ∧ s.trip.toNat < Config.triplets then
    match readPixels s.ifb (packSrc s.row.toNat s.trip.toNat) with
    | some p =>
      .next (packAdvance { s with pvb := writeTriplet s.pvb (pvbOff s.row.toNat s.trip.toNat 0) (order p) })
    | none => .fault .unwrittenRead
  else .fault .badPosition

/-- PACK_EVEN (40_pixel_packer.md R134), the micro-op of an EVEN position. -/
def execPackEven (s : State) : Host.Outcome State Fault Refusal :=
  if seqUop s = 0x1#4 then packTriplet evenTriplet s else .refused .noSuchStep

/-- PACK_ODD (40_pixel_packer.md R135), the micro-op of an ODD position. -/
def execPackOdd (s : State) : Host.Outcome State Fault Refusal :=
  if seqUop s = 0x2#4 then packTriplet oddTriplet s else .refused .noSuchStep

end Sys2Proof.Machine
end

