-- ==== Sys2Proof/WellFormed.lean ====
section
/-! DEFINITION. Which instructions the spec has: the offset of a buffer access lies inside its buffer (30_encoding.md
R105; the rest of the field's range is unmapped, 20_memory.md R76). -/

namespace Sys2Proof

/-- The operand ranges of 30_encoding.md R105. Commands, micro-ops and register accesses have no ill-formed operand. -/
def Instr.wellFormed : Instr → Bool
  | .nop | .pack | .mux | .encode | .reset => true
  | .idle | .packEven | .packOdd => true
  | .muxSync1 | .muxSync2 | .muxSync3 | .muxVideo | .muxAudio => true
  | .regRd _ | .regWr _ _ => true
  | .afbRd k | .afbWr k _ => decide (k.toNat < Config.afbBytes)
  | .pvbRd k | .pvbWr k _ => decide (k.toNat < Config.pvbBytes)
  | .ifbRd k | .ifbWr k _ => decide (k.toNat < Config.ifbBytes)

end Sys2Proof
end

