-- ==== Sys2Proof/Decode.lean ====
section
/-! DEFINITION. The decoder and the encoder of the three encodings of 30_encoding.md: command words (R100 to R102),
micro-op codes (R103) and bus descriptors (R105). -/

namespace Sys2Proof

/-- Why an encoded thing is no instruction. -/
inductive Reject where
  /-- A command word outside 30_encoding.md R101 (R102). -/
  | illegalCommand
  /-- A micro-op code that is never produced (30_encoding.md R103). -/
  | unusedUop
  /-- A width or alignment the region does not take, or SIZE 1 or 3 (20_memory.md R78, 60_exceptions.md R229). -/
  | hostWidth
  /-- An address outside every window (20_memory.md R76, 60_exceptions.md R229). -/
  | hostUnmapped
  deriving DecidableEq, Repr

/-- The decoder's answer. -/
inductive Decoded where
  | ok (i : Instr)
  | rejected (why : Reject)
  deriving DecidableEq, Repr

/-- Command words (30_encoding.md R101); every other word is illegal (R102). -/
def decodeCommand (w : Word) : Decoded :=
  if w = 0x00000000#32 then .ok .nop
  else if w = 0x00000001#32 then .ok .pack
  else if w = 0x00000002#32 then .ok .mux
  else if w = 0x00000003#32 then .ok .encode
  else if w = 0x0000000F#32 then .ok .reset
  else .rejected .illegalCommand

/-- Micro-op codes (30_encoding.md R103). -/
def decodeUop (c : BitVec 4) : Decoded :=
  if c = 0x0#4 then .ok .idle
  else if c = 0x1#4 then .ok .packEven
  else if c = 0x2#4 then .ok .packOdd
  else if c = 0x8#4 then .ok .muxSync1
  else if c = 0x9#4 then .ok .muxSync2
  else if c = 0xA#4 then .ok .muxSync3
  else if c = 0xB#4 then .ok .muxVideo
  else if c = 0xC#4 then .ok .muxAudio
  else .rejected .unusedUop

/-- `WR[22]` of a descriptor (30_encoding.md R105). -/
def busWr (d : BitVec 23) : Bool := d.getLsbD 22

/-- `SIZE[21:20]` of a descriptor: 0 byte, 2 word (30_encoding.md R105). -/
def busSize (d : BitVec 23) : BitVec 2 := d.extractLsb' 20 2

/-- `ADDR[19:0]` of a descriptor (30_encoding.md R105). -/
def busAddr (d : BitVec 23) : Nat := (d.extractLsb' 0 20).toNat

/-- The data byte of a byte write, on lanes 7:0 (20_memory.md R84). Log 12. -/
def dataByte (data : Word) : Byte := data.extractLsb' 0 8

/-- Bus descriptors (30_encoding.md R105). SIZE 1 and 3 are refused first, then an unmapped address, then a width or
alignment its region does not take (20_memory.md R76, R78; 60_exceptions.md R229). DESIGN CHOICE of that order, log 11. -/
def decodeBus (d : BitVec 23) (data : Word) : Decoded :=
  let a := busAddr d
  if busSize d = 1#2 ∨ busSize d = 3#2 then .rejected .hostWidth
  else if a < Config.regBytes then
    if busSize d = 2#2 ∧ a % 4 = 0 then
      if busWr d then .ok (.regWr (BitVec.ofNat 6 (a / 4)) data) else .ok (.regRd (BitVec.ofNat 6 (a / 4)))
    else .rejected .hostWidth
  else if Config.afbBase ≤ a ∧ a < Config.afbBase + Config.afbBytes then
    if busSize d = 0#2 then
      if busWr d then .ok (.afbWr (BitVec.ofNat 11 (a - Config.afbBase)) (dataByte data))
      else .ok (.afbRd (BitVec.ofNat 11 (a - Config.afbBase)))
    else .rejected .hostWidth
  else if Config.pvbBase ≤ a ∧ a < Config.pvbBase + Config.pvbBytes then
    if busSize d = 0#2 then
      if busWr d then .ok (.pvbWr (BitVec.ofNat 15 (a - Config.pvbBase)) (dataByte data))
      else .ok (.pvbRd (BitVec.ofNat 15 (a - Config.pvbBase)))
    else .rejected .hostWidth
  else if Config.ifbBase ≤ a ∧ a < Config.ifbBase + Config.ifbBytes then
    if busSize d = 0#2 then
      if busWr d then .ok (.ifbWr (BitVec.ofNat 18 (a - Config.ifbBase)) (dataByte data))
      else .ok (.ifbRd (BitVec.ofNat 18 (a - Config.ifbBase)))
    else .rejected .hostWidth
  else .rejected .hostUnmapped

/-- The decoder, total on the three encodings. -/
def decode : Encoded → Decoded
  | .cmd w => decodeCommand w
  | .uop c => decodeUop c
  | .bus d data => decodeBus d data

/-- A descriptor `{WR[22], SIZE[21:20], ADDR[19:0]}` (30_encoding.md R105). -/
def busDescriptor (wr : Bool) (size : BitVec 2) (addr : Nat) : BitVec 23 :=
  BitVec.ofBool wr ++ size ++ BitVec.ofNat 20 addr

/-- The encoding of each instruction, from the tables of 30_encoding.md R101, R103 and R105. A read's data lanes are 0
and a byte write's lanes 31:8 are 0. -/
def encode : Instr → Encoded
  | .nop => .cmd 0x00000000#32
  | .pack => .cmd 0x00000001#32
  | .mux => .cmd 0x00000002#32
  | .encode => .cmd 0x00000003#32
  | .reset => .cmd 0x0000000F#32
  | .idle => .uop 0x0#4
  | .packEven => .uop 0x1#4
  | .packOdd => .uop 0x2#4
  | .muxSync1 => .uop 0x8#4
  | .muxSync2 => .uop 0x9#4
  | .muxSync3 => .uop 0xA#4
  | .muxVideo => .uop 0xB#4
  | .muxAudio => .uop 0xC#4
  | .regRd r => .bus (busDescriptor false 2#2 (4 * r.toNat)) 0#32
  | .regWr r w => .bus (busDescriptor true 2#2 (4 * r.toNat)) w
  | .afbRd k => .bus (busDescriptor false 0#2 (Config.afbBase + k.toNat)) 0#32
  | .afbWr k v => .bus (busDescriptor true 0#2 (Config.afbBase + k.toNat)) (v.setWidth 32)
  | .pvbRd k => .bus (busDescriptor false 0#2 (Config.pvbBase + k.toNat)) 0#32
  | .pvbWr k v => .bus (busDescriptor true 0#2 (Config.pvbBase + k.toNat)) (v.setWidth 32)
  | .ifbRd k => .bus (busDescriptor false 0#2 (Config.ifbBase + k.toNat)) 0#32
  | .ifbWr k v => .bus (busDescriptor true 0#2 (Config.ifbBase + k.toNat)) (v.setWidth 32)

/-- A numbered table word as one of the three encodings, chosen by its length in bits: a micro-op code in one byte, a
bus descriptor in three with its write data in the bits above, a command word in four. A bit outside the encoding
makes it none of them. Log 14. -/
def tableEncoded (nbits w : Nat) : Option Encoded :=
  if nbits ≤ 8 then if w < 2 ^ 4 then some (.uop (BitVec.ofNat 4 w)) else none
  else if nbits ≤ 24 then
    if w % 2 ^ 24 < 2 ^ 23 ∧ w < 2 ^ 56 then some (.bus (BitVec.ofNat 23 (w % 2 ^ 24)) (BitVec.ofNat 32 (w / 2 ^ 24)))
    else none
  else if w < 2 ^ 32 then some (.cmd (BitVec.ofNat 32 w)) else none

/-- The instruction an answer of the decoder holds. -/
def Decoded.instr? : Decoded → Option Instr
  | .ok i => some i
  | .rejected _ => none

/-- The instruction the decoder reads from a word numbered as spec/opcode_table.json numbers it. -/
def decodeTableWord (nbits w : Nat) : Option Instr :=
  match tableEncoded nbits w with
  | some e => (decode e).instr?
  | none => none

end Sys2Proof
end

