-- ==== Sys2Proof/Machine/Sequencer.lean ====
section
/-! DEFINITION. The idle sequencer (42_commands.md R201), what the next step is (R190) and where an encoded instruction is
placed so that the next step runs it. -/

namespace Sys2Proof.Machine

/-- IDLE (42_commands.md R201): the sequencer has no step, so nothing changes. Log 6. -/
def execIdle (s : State) : Host.Outcome State Fault Refusal :=
  if seqUop s = 0x0#4 then .next s else .refused .noSuchStep

/-- The next step (42_commands.md R190), with the state it is taken from. -/
inductive Fetched where
  /-- A host access or a micro-op. -/
  | instr (i : Instr) (s : State)
  /-- A reset from `rst_n`. -/
  | rst (s : State)
  /-- An access that has no step (60_exceptions.md R229). -/
  | refused (why : Refusal)
  deriving DecidableEq, Repr

/-- The refusal of an encoding that is no instruction. An unused micro-op code is never produced (30_encoding.md R103). -/
def rejectRefusal : Reject → Refusal
  | .hostWidth => .hostWidth
  | .hostUnmapped => .hostUnmapped
  | .unusedUop => .noSuchStep
  | .illegalCommand => .noSuchStep

/-- The instruction an encoding holds, or its refusal. -/
def fetchEncoded (e : Encoded) (s : State) : Fetched :=
  match decode e with
  | .ok i => .instr i s
  | .rejected why => .refused (rejectRefusal why)

/-- A command word written to CMD: an illegal one is a REG_WR of that word to CMD, which records the error (42_commands.md
R195). Log 10. -/
def fetchCommand (w : Word) (s : State) : Fetched :=
  match decode (.cmd w) with
  | .ok i => .instr i s
  | .rejected _ => .instr (.regWr 0#6 w) s

/-- What the next step is: what the outside does next if anything is left, else the micro-op SEQ.UOP names. -/
def fetch (s : State) : Fetched :=
  match s.inputs with
  | [] => fetchEncoded (.uop (seqUop s)) s
  | .turn :: rest => fetchEncoded (.uop (seqUop s)) { s with inputs := rest }
  | .bus d data :: rest => fetchEncoded (.bus d data) { s with inputs := rest }
  | .cmd w :: rest => fetchCommand w { s with inputs := rest }
  | .rst :: rest => .rst { s with inputs := rest }

/-- The multiplexer at group `g`, byte `j`, holding a packed frame, with a sink that accepts the next byte: the state in
which the micro-op of that position is enabled (42_commands.md R201). -/
def placeMux (g : BitVec 11) (j : BitVec 4) (s : State) : State :=
  { startMux s with pvbValid := true, group := g, byte := j, sink := .accept :: s.sink }

/-- The sequencer at the first position that names a micro-op code. -/
def placeUop (c : BitVec 4) (s : State) : State :=
  if c = 0x1#4 then startPack s
  else if c = 0x2#4 then { startPack s with row := 1#8 }
  else if c = 0x8#4 then placeMux 0#11 0#4 s
  else if c = 0x9#4 then placeMux 24#11 0#4 s
  else if c = 0xA#4 then placeMux 36#11 0#4 s
  else if c = 0xB#4 then placeMux 40#11 0#4 s
  else if c = 0xC#4 then placeMux 0#11 9#4 s
  else { s with engine := .idle, busy := false, chain := false }

/-- The state whose next step runs an encoding: a host word is the host's next access, a micro-op code is the position
that names it with the sequencer's turn next. Log 14. -/
def placeEncoded (e : Encoded) (s : State) : State :=
  match e with
  | .cmd w => { s with inputs := .cmd w :: s.inputs }
  | .bus d data => { s with inputs := .bus d data :: s.inputs }
  | .uop c => { placeUop c s with inputs := .turn :: s.inputs }

end Sys2Proof.Machine
end

