-- ==== Sys2Proof/Machine/Dispatch.lean ====
section
/-! DEFINITION. One arm for each constructor of Instr. -/

namespace Sys2Proof.Machine

def exec (i : Instr) (s : State) : Host.Outcome State Fault Refusal :=
  match i with
  -- the command words (30_encoding.md R101)
  | .nop => Sys2Proof.Machine.execNop s
  | .pack => Sys2Proof.Machine.execPack s
  | .mux => Sys2Proof.Machine.execMux s
  | .encode => Sys2Proof.Machine.execEncode s
  | .reset => Sys2Proof.Machine.execReset s
  -- the micro-ops (30_encoding.md R103)
  | .idle => Sys2Proof.Machine.execIdle s
  | .packEven => Sys2Proof.Machine.execPackEven s
  | .packOdd => Sys2Proof.Machine.execPackOdd s
  | .muxSync1 => Sys2Proof.Machine.execMuxSync1 s
  | .muxSync2 => Sys2Proof.Machine.execMuxSync2 s
  | .muxSync3 => Sys2Proof.Machine.execMuxSync3 s
  | .muxVideo => Sys2Proof.Machine.execMuxVideo s
  | .muxAudio => Sys2Proof.Machine.execMuxAudio s
  -- the host bus transactions (30_encoding.md R105)
  | .regRd r => Sys2Proof.Machine.execRegRd r s
  | .regWr r w => Sys2Proof.Machine.execRegWr r w s
  | .afbRd k => Sys2Proof.Machine.execAfbRd k s
  | .afbWr k v => Sys2Proof.Machine.execAfbWr k v s
  | .pvbRd k => Sys2Proof.Machine.execPvbRd k s
  | .pvbWr k v => Sys2Proof.Machine.execPvbWr k v s
  | .ifbRd k => Sys2Proof.Machine.execIfbRd k s
  | .ifbWr k v => Sys2Proof.Machine.execIfbWr k v s

end Sys2Proof.Machine
end

