-- ==== Sys2Proof/Machine/Step.lean ====
section
/-! DEFINITION. One step of the block (42_commands.md R190): a host access, a micro-op or a reset. -/

namespace Sys2Proof.Machine

/-- One atomic step: what `fetch` finds next. -/
def step (s : State) : Host.Outcome State Fault Refusal :=
  match fetch s with
  | .instr i t => exec i t
  | .rst t => .next (resetBlock t)
  | .refused why => .refused why

/-- `s` with the instruction of a numbered table word where the next step finds it. Log 14. -/
def State.withFetchWord (s : State) (nbits w : Nat) : State :=
  match tableEncoded nbits w with
  | some e => placeEncoded e s
  | none => s

end Sys2Proof.Machine
end

