-- ==== Sys2Proof/Safety.lean ====
section
/-! DEFINITION. The terms claims are stated in: the legal states of 10_state.md R56 and the invariant that implies them, runs,
and the frame and payload functions of 40_pixel_packer.md R138 and 41_frame_multiplexer.md R170. -/

namespace Sys2Proof.Machine

/-- The invariants of 10_state.md R56, one field for each of its clauses. -/
structure State.Legal (s : State) : Prop where
  busy_iff_engine : s.busy = true ↔ s.engine ≠ .idle
  err_stops : s.err ≠ .none → s.done = false ∧ s.busy = false
  packer_holds_no_frame : s.engine = .packer → s.pvbValid = false
  chain_only_packing : s.chain = true → s.engine = .packer
  mux_holds_frame : s.engine = .multiplexer → s.pvbValid = true
  row_le : s.row.toNat ≤ 160
  trip_le : s.trip.toNat ≤ 35
  trip_at_end : s.row.toNat = 160 → s.trip.toNat = 0
  group_le : s.group.toNat ≤ 1960
  byte_le : s.byte.toNat ≤ 9
  byte_at_end : s.group.toNat = 1960 → s.byte.toNat = 0

/-- What every step keeps: the legal states, the buffers in canonical form, an engine inside its frame or payload, SYNC3
as the ROM holds it, and an unanswered byte that is the byte of the position. -/
structure State.Inv (s : State) : Prop where
  legal : s.Legal
  busy_not_done : s.busy = true → s.done = false
  packer_inside : s.engine = .packer → s.row.toNat < 160
  mux_inside : s.engine = .multiplexer → s.group.toNat < 1960
  ifb_wf : Memory.wf Config.ifbBytes s.ifb
  pvb_wf : Memory.wf Config.pvbBytes s.pvb
  afb_wf : Memory.wf Config.afbBytes s.afb
  sync3_fixed : s.rom.sync3 = Vector.replicate 9 0xFF#8
  offered_is_next : ∀ v, s.offered = some v →
    s.engine = .multiplexer ∧ muxByte s s.group.toNat s.byte.toNat = some v

/-- The first `n` bytes of a buffer are written. -/
def Memory.Written (n : Nat) (m : Memory) : Prop := ∀ a < n, (m.read a).isSome

/-- What PVB holds of a packed frame: all of it while PVB_VALID is 1, and while the packer runs every byte before the
next triplet's (40_pixel_packer.md R136, R137). -/
def PackedSoFar (s : State) : Prop :=
  (s.pvbValid = true → s.pvb.Written 17280) ∧
  (s.engine = .packer → s.pvb.Written (108 * s.row.toNat + 3 * s.trip.toNat))

/-- The power-on state with anything for the outside to do and any sync tables (70_reset_and_hazards.md R262): the
launch states of runs. -/
def Launch (s : State) : Prop :=
  ∃ inputs sink sync1 sync2, s = { State.reset with
    inputs := inputs, sink := sink, rom := { SyncRom.ofConfig with sync1 := sync1, sync2 := sync2 } }

/-- `t` is reached from `s` by steps that each answer a next state. -/
def Reaches : State → State → Prop := Relation.ReflTransGen fun s t => step s = .next t

/-- `PackFrame(F)[108*o + 3*t + j]` (40_pixel_packer.md R138), in the byte operations of R130. -/
def packFrame (F : Nat → Byte) (o t j : Nat) : Byte :=
  let a0 := ((159 - o) * 432 + 12 * t) * 3
  let two (x y : Byte) : Byte := (x &&& 0xF0#8) ||| (y >>> 4)
  if o % 2 = 0 then
    if j = 0 then two (F a0) (F (a0 + 1))
    else if j = 1 then two (F (a0 + 2)) (F (a0 + 3))
    else two (F (a0 + 4)) (F (a0 + 5))
  else
    if j = 0 then two (F (a0 + 1)) (F (a0 + 2))
    else if j = 1 then two (F a0) (F (a0 + 4))
    else two (F (a0 + 5)) (F (a0 + 3))

/-- The next step is a reset: from `rst_n`, or by the word `0x0000000F` written to CMD (70_reset_and_hazards.md R260). -/
def ResetsNext (s : State) : Prop :=
  (∃ u, fetch s = .rst u) ∨ (∃ u, fetch s = .instr .reset u) ∨ ∃ u, fetch s = .instr (.regWr 0#6 0x0000000F#32) u

/-- `Payload(S1, S2, P, A)[p] = MuxByte(p div 10, p mod 10)` (41_frame_multiplexer.md R170), read from the tables and
buffers of `s`. -/
def payloadByte (s : State) (p : Nat) : Option Byte := muxByte s (p / 10) (p % 10)

/-- The sink holds, after what it held in `base`, exactly payload offsets `0` to `n - 1` (41_frame_multiplexer.md R173). -/
def PayloadPrefix (base : List Byte) (s : State) (n : Nat) : Prop :=
  ∃ l : List Byte, s.accepted = base ++ l ∧ l.length = n ∧ ∀ p < n, ∃ v, l[p]? = some v ∧ payloadByte s p = some v

end Sys2Proof.Machine
end

