-- ==== Sys2Proof/Certificates/Slice0/Obligations.lean ====
section
/-! DEFINITION. The statements for the provers, each a formal reading of rules of spec/. -/

open Sys2Proof Sys2Proof.Machine

/-! ## Encodings (30_encoding.md) -/

/-- Every well-formed instruction is decoded from its own encoding, with every operand at every value (R101, R103, R105). -/
def Obligations.DecodeInvertsEncode : Prop :=
  ∀ i : Instr, i.wellFormed = true → decode (encode i) = .ok i

/-- What decodes is well-formed and has one encoding: its command word, its micro-op code, its descriptor (R101, R103,
R105; the data lanes a read or a byte write does not use are free). -/
def Obligations.DecodedCodesHaveOneMeaning : Prop :=
  ∀ (e : Encoded) (i : Instr), decode e = .ok i →
    i.wellFormed = true ∧
      match e with
      | .cmd w => encode i = .cmd w
      | .uop c => encode i = .uop c
      | .bus d _ => ∃ data, encode i = .bus d data

/-- Words written out from R101, R103 and R105 decode to the instructions they stand for. -/
def Obligations.SpecWordsDecode : Prop :=
  decode (.cmd 0x00000003#32) = .ok .encode ∧ decode (.cmd 0x0000000F#32) = .ok .reset ∧
  decode (.uop 0x2#4) = .ok .packOdd ∧ decode (.uop 0xC#4) = .ok .muxAudio ∧
  decode (.bus 0x20001C#23 0#32) = .ok (.regRd 7#6) ∧
  decode (.bus 0x60000C#23 0x000007A8#32) = .ok (.regWr 3#6 0x000007A8#32) ∧
  decode (.bus 0x4107A7#23 0x80#32) = .ok (.afbWr 1959#11 0x80#8) ∧
  decode (.bus 0x02437F#23 0#32) = .ok (.pvbRd 17279#15) ∧
  decode (.bus 0x4729FF#23 0xA5#32) = .ok (.ifbWr 207359#18 0xA5#8)

/-- Exactly the descriptors of R105's table have a meaning; SIZE 1 and 3 and the wrong widths and alignments of the
windows are HOST_WIDTH, a byte or word access outside every window HOST_UNMAPPED (20_memory.md R76, R78). That SIZE 1
or 3 outside every window is HOST_WIDTH, and a misaligned word there HOST_UNMAPPED, is the model's choice, log 11. -/
def Obligations.BusDescriptorsRefused : Prop :=
  ∀ (wr : Bool) (size : BitVec 2) (a : Nat) (data : Word), a < 2 ^ 20 →
    let reg := a < 0x100
    let buf := (0x10000 ≤ a ∧ a ≤ 0x107A7) ∨ (0x20000 ≤ a ∧ a ≤ 0x2437F) ∨ (0x40000 ≤ a ∧ a ≤ 0x729FF)
    let answer := decode (.bus (busDescriptor wr size a) data)
    ((∃ i, answer = .ok i) ↔ (reg ∧ size = 2#2 ∧ a % 4 = 0) ∨ (buf ∧ size = 0#2)) ∧
    (answer = .rejected .hostUnmapped ↔ ¬ reg ∧ ¬ buf ∧ size ≠ 1#2 ∧ size ≠ 3#2) ∧
    (answer = .rejected .hostWidth ↔
      size = 1#2 ∨ size = 3#2 ∨ (reg ∧ (size = 0#2 ∨ a % 4 ≠ 0)) ∨ (buf ∧ size = 2#2))

/-! ## Steps (42_commands.md R190) -/

/-- The host's next access is decoded and run from the state with the access taken off `inputs`; what has no meaning is
refused by name; an illegal command word is run as the REG_WR of it to CMD (R190, R195; log 10). -/
def Obligations.StepRunsTheDecodedAccess : Prop :=
  ∀ (s : State) (rest : List Input),
    (∀ d data i, s.inputs = .bus d data :: rest → decode (.bus d data) = .ok i →
      step s = exec i { s with inputs := rest }) ∧
    (∀ d data, s.inputs = .bus d data :: rest → decode (.bus d data) = .rejected .hostWidth →
      step s = .refused .hostWidth) ∧
    (∀ d data, s.inputs = .bus d data :: rest → decode (.bus d data) = .rejected .hostUnmapped →
      step s = .refused .hostUnmapped) ∧
    (∀ w i, s.inputs = .cmd w :: rest → decode (.cmd w) = .ok i → step s = exec i { s with inputs := rest }) ∧
    (∀ w, s.inputs = .cmd w :: rest → decode (.cmd w) = .rejected .illegalCommand →
      step s = exec (.regWr 0#6 w) { s with inputs := rest })

/-- On its turn the sequencer runs the one micro-op its position names (10_state.md R46). Two clauses are the model's
choice: that an idle sequencer's turn runs IDLE, where 42_commands.md R201 gives it no step (log 6), and that the turn
comes from the list `inputs`, every step being its turn when none is left (log 1). -/
def Obligations.SequencerRunsTheNamedMicroOp : Prop :=
  ∀ (s : State) (rest : List Input), (s.inputs = [] ∧ rest = []) ∨ s.inputs = .turn :: rest →
    let u := { s with inputs := rest }
    let i := s.group.toNat
    (s.engine = .idle → step s = exec .idle u) ∧
    (s.engine = .packer → s.row.toNat % 2 = 0 → step s = exec .packEven u) ∧
    (s.engine = .packer → s.row.toNat % 2 = 1 → step s = exec .packOdd u) ∧
    (s.engine = .multiplexer → s.byte.toNat = 9 → step s = exec .muxAudio u) ∧
    (s.engine = .multiplexer → s.byte.toNat ≠ 9 → i < 24 → step s = exec .muxSync1 u) ∧
    (s.engine = .multiplexer → s.byte.toNat ≠ 9 → 24 ≤ i → i < 36 → step s = exec .muxSync2 u) ∧
    (s.engine = .multiplexer → s.byte.toNat ≠ 9 → 36 ≤ i → i < 40 → step s = exec .muxSync3 u) ∧
    (s.engine = .multiplexer → s.byte.toNat ≠ 9 → 40 ≤ i → step s = exec .muxVideo u)

/-- Reset, from `rst_n` or the RESET command, whatever the block was doing (70_reset_and_hazards.md R260): every register
reads its reset value, every written mark is clear, the offered byte is withdrawn, the sync ROM and the bytes at the
sink are as they were, and the engine is idle. R260 then gives the sequencer no step: that step answers the state
unchanged when no input is left, the last clause, is the model's choice, log 6 and log 1. -/
def Obligations.ResetLeavesTheResetState : Prop :=
  ∀ s t : State, (exec .reset s = .next t ∨ ∃ rest, s.inputs = .rst :: rest ∧ step s = .next t) →
    (∀ r, r < 64 → regWord t r = 0#32) ∧
    (∀ a, t.ifb.read a = none ∧ t.pvb.read a = none ∧ t.afb.read a = none) ∧
    t.offered = none ∧ t.rom = s.rom ∧ t.accepted = s.accepted ∧ t.engine = .idle ∧
    (t.inputs = [] → step t = .next t)

/-- RESET runs in every state, and `rst_n` is a step of every state it is asserted in (42_commands.md R200, 20_memory.md
R72). What the environment holds is kept: the model's choice, log 13. -/
def Obligations.ResetAlwaysRuns : Prop :=
  ∀ s : State,
    (∃ t, exec .reset s = .next t ∧ t = { State.reset with
      rom := s.rom, accepted := s.accepted, sink := s.sink, inputs := s.inputs, reads := s.reads, draws := s.draws }) ∧
    exec (.regWr 0#6 0x0000000F#32) s = exec .reset s ∧
    ∀ rest, s.inputs = .rst :: rest → step s = exec .reset { s with inputs := rest }

/-- Idle, the sequencer has no step: IDLE changes nothing, and a micro-op the position does not name is no step of the
block (42_commands.md R201). That IDLE is a step without effect and the others are refused is the model's choice, log 6
and 8, and that the sequencer's turn comes when no input is left is log 1. -/
def Obligations.IdleSequencerHasNoStep : Prop :=
  ∀ s : State, s.engine = .idle →
    exec .idle s = .next s ∧
    (s.inputs = [] → step s = .next s) ∧
    ∀ i, i = .packEven ∨ i = .packOdd ∨ i = .muxSync1 ∨ i = .muxSync2 ∨ i = .muxSync3 ∨ i = .muxVideo ∨ i = .muxAudio →
      exec i s = .refused .noSuchStep

/-! ## Registers (10_state.md, 42_commands.md R191, R192) -/

/-- REG_RD returns the register's word in every state and changes nothing else (R191; 20_memory.md R79): CMD and the
reserved offsets 0, STATUS, the lengths, PACK_POS, MUX_POS, SEQ, FRAMES. The list `reads` is the model's record of what
was returned, log 13. -/
def Obligations.RegisterReadsReturnTheRegister : Prop :=
  ∀ (r : BitVec 6) (s : State),
    ∃ w : Word, exec (.regRd r) s = .next { s with reads := s.reads ++ [.word w] } ∧
      (r.toNat = 0 → w = 0#32) ∧
      (r.toNat = 2 → w.toNat = s.ifbLen.toNat) ∧
      (r.toNat = 3 → w.toNat = s.afbLen.toNat) ∧
      (r.toNat = 4 → w.toNat = s.row.toNat + 2 ^ 8 * s.trip.toNat) ∧
      (r.toNat = 5 → w.toNat = s.group.toNat + 2 ^ 12 * s.byte.toNat) ∧
      (r.toNat = 7 → w = s.frames) ∧
      (8 ≤ r.toNat → w = 0#32)

/-- STATUS, field by field (R35): BUSY 0, PVB_VALID 1, DONE 2, OVR 3, ERR 7:4, ENGINE 9:8, CHAIN 10, the rest 0; host
writes to it are ignored; its reset value is 0. -/
def Obligations.StatusHasItsFields : Prop :=
  (∀ s : State, ∃ w : Word, exec (.regRd 1#6) s = .next { s with reads := s.reads ++ [.word w] } ∧
    w.getLsbD 0 = s.busy ∧ w.getLsbD 1 = s.pvbValid ∧ w.getLsbD 2 = s.done ∧ w.getLsbD 3 = s.ovr ∧
    (w.toNat / 2 ^ 4 % 2 ^ 4 =
      match s.err with
      | .none => 0 | .illegalCmd => 1 | .frameSize => 2 | .noVideo => 3 | .audioSize => 4 | .sink => 5) ∧
    (w.toNat / 2 ^ 8 % 2 ^ 2 = match s.engine with | .idle => 0 | .packer => 1 | .multiplexer => 2) ∧
    w.getLsbD 10 = s.chain ∧ w.toNat < 2 ^ 11) ∧
  (∀ (s : State) (w : Word), s.busy = false → exec (.regWr 1#6 w) s = .next s) ∧
  statusWord State.reset = 0#32

/-- SEQ reads the code of the next micro-op, computed from the position (R46); reset value 0. -/
def Obligations.SeqReadsTheNextMicroOp : Prop :=
  (∀ s : State, exec (.regRd 6#6) s = .next { s with reads := s.reads ++ [.word (
      match s.engine with
      | .idle => 0x0#32
      | .packer => if s.row.toNat % 2 = 0 then 0x1#32 else 0x2#32
      | .multiplexer =>
        if s.byte.toNat = 9 then 0xC#32
        else if s.group.toNat < 24 then 0x8#32
        else if s.group.toNat < 36 then 0x9#32
        else if s.group.toNat < 40 then 0xA#32
        else 0xB#32)] }) ∧
  seqWord State.reset = 0#32

/-- An idle block stores the low 18 bits written to IFB_LEN and the low 11 written to AFB_LEN, and nothing else changes
(R42, R43; 42_commands.md R192). -/
def Obligations.LengthWritesKeepTheLowBits : Prop :=
  ∀ (s : State) (w : Word), s.busy = false →
    (∃ n : BitVec 18, n.toNat = w.toNat % 2 ^ 18 ∧ exec (.regWr 2#6 w) s = .next { s with ifbLen := n }) ∧
    (∃ n : BitVec 11, n.toNat = w.toNat % 2 ^ 11 ∧ exec (.regWr 3#6 w) s = .next { s with afbLen := n })

/-- Reserved offsets read 0; writes to them and to STATUS, PACK_POS, MUX_POS, SEQ and FRAMES have no effect, and set OVR
while busy (R53). -/
def Obligations.ReservedAndReadOnlyRegistersIgnoreWrites : Prop :=
  (∀ (r : BitVec 6) (s : State), 8 ≤ r.toNat →
    exec (.regRd r) s = .next { s with reads := s.reads ++ [.word 0#32] }) ∧
  ∀ (r : BitVec 6) (w : Word) (s : State), r.toNat ≠ 0 → r.toNat ≠ 2 → r.toNat ≠ 3 →
    (s.busy = false → exec (.regWr r w) s = .next s) ∧
    (s.busy = true → exec (.regWr r w) s = .next { s with ovr := true })

/-- While BUSY = 1 every host write is dropped and sets OVR, but NOP and RESET written to CMD; accesses without a
meaning are refused whatever BUSY is; reads are not dropped (42_commands.md R202). -/
def Obligations.WritesWhileBusyAreDropped : Prop :=
  ∀ s : State, s.busy = true →
    let dropped : Host.Outcome State Fault Refusal := .next { s with ovr := true }
    (∀ r w, ¬ (r = 0#6 ∧ (w = 0x00000000#32 ∨ w = 0x0000000F#32)) → exec (.regWr r w) s = dropped) ∧
    (∀ k v, k.toNat < 207360 → exec (.ifbWr k v) s = dropped) ∧
    (∀ k v, k.toNat < 1960 → exec (.afbWr k v) s = dropped) ∧
    (∀ k v, k.toNat < 17280 → exec (.pvbWr k v) s = dropped) ∧
    exec .pack s = dropped ∧ exec .mux s = dropped ∧ exec .encode s = dropped ∧
    exec .nop s = .next s ∧ exec (.regWr 0#6 0x00000000#32) s = .next s ∧
    (∃ t, exec .reset s = .next t ∧ t.busy = false) ∧
    (∀ d data rest, s.inputs = .bus d data :: rest →
      (decode (.bus d data) = .rejected .hostWidth → step s = .refused .hostWidth) ∧
      (decode (.bus d data) = .rejected .hostUnmapped → step s = .refused .hostUnmapped)) ∧
    (∀ r, ∃ w, exec (.regRd r) s = .next { s with reads := s.reads ++ [.word w] }) ∧
    (∀ k b, k.toNat < 207360 → s.ifb.read k.toNat = some b →
      exec (.ifbRd k) s = .next { s with reads := s.reads ++ [.byte b] }) ∧
    (∀ k b, k.toNat < 1960 → s.afb.read k.toNat = some b →
      exec (.afbRd k) s = .next { s with reads := s.reads ++ [.byte b] })

/-! ## Buffers (42_commands.md R193, R194) -/

/-- A byte write to IFB or AFB while idle stores the byte and sets its mark; no other byte of any buffer and nothing else
changes. A byte write to the PVB window has no effect. While busy all three are dropped with OVR (R193). -/
def Obligations.BufferWritesStoreOneByte : Prop :=
  (∀ (k : BitVec 18) (v : Byte) (s : State), k.toNat < 207360 → s.busy = false →
    ∃ m, exec (.ifbWr k v) s = .next { s with ifb := m } ∧ m.read k.toNat = some v ∧
      ∀ a, a ≠ k.toNat → m.read a = s.ifb.read a) ∧
  (∀ (k : BitVec 11) (v : Byte) (s : State), k.toNat < 1960 → s.busy = false →
    ∃ m, exec (.afbWr k v) s = .next { s with afb := m } ∧ m.read k.toNat = some v ∧
      ∀ a, a ≠ k.toNat → m.read a = s.afb.read a) ∧
  (∀ (k : BitVec 15) (v : Byte) (s : State), k.toNat < 17280 → s.busy = false → exec (.pvbWr k v) s = .next s) ∧
  (∀ s : State, s.busy = true →
    (∀ k v, k.toNat < 207360 → exec (.ifbWr k v) s = .next { s with ovr := true }) ∧
    (∀ k v, k.toNat < 1960 → exec (.afbWr k v) s = .next { s with ovr := true }) ∧
    (∀ k v, k.toNat < 17280 → exec (.pvbWr k v) s = .next { s with ovr := true }))

/-- A buffer byte read returns the stored byte and changes nothing else; a byte whose written mark is clear is the model
fault; a PVB byte read while ENGINE = 1 returns any byte, written or not (R194). That byte is the model's free value
`Config.pvbDraw` of a counter the read advances (log 3): nothing is known of it. -/
def Obligations.BufferReadsReturnTheByte : Prop :=
  ∀ s : State,
    (∀ k b, k.toNat < 207360 → s.ifb.read k.toNat = some b →
      exec (.ifbRd k) s = .next { s with reads := s.reads ++ [.byte b] }) ∧
    (∀ k b, k.toNat < 1960 → s.afb.read k.toNat = some b →
      exec (.afbRd k) s = .next { s with reads := s.reads ++ [.byte b] }) ∧
    (∀ k b, k.toNat < 17280 → s.engine ≠ .packer → s.pvb.read k.toNat = some b →
      exec (.pvbRd k) s = .next { s with reads := s.reads ++ [.byte b] }) ∧
    (∀ k, k.toNat < 17280 → s.engine = .packer →
      ∃ b, exec (.pvbRd k) s = .next { s with reads := s.reads ++ [.byte b], draws := s.draws + 1 }) ∧
    (∀ k, k.toNat < 207360 → s.ifb.read k.toNat = none → exec (.ifbRd k) s = .fault .unwrittenRead) ∧
    (∀ k, k.toNat < 1960 → s.afb.read k.toNat = none → exec (.afbRd k) s = .fault .unwrittenRead) ∧
    (∀ k, k.toNat < 17280 → s.engine ≠ .packer → s.pvb.read k.toNat = none →
      exec (.pvbRd k) s = .fault .unwrittenRead)

/-- No host read has a side effect on the block: only the record of reads, and the counter of free bytes, move
(20_memory.md R79). -/
def Obligations.HostReadsHaveNoSideEffect : Prop :=
  ∀ (i : Instr) (s t : State),
    ((∃ r, i = .regRd r) ∨ (∃ k, i = .afbRd k) ∨ (∃ k, i = .pvbRd k) ∨ ∃ k, i = .ifbRd k) →
    exec i s = .next t →
    t = { s with reads := t.reads, draws := t.draws } ∧ ∃ v, t.reads = s.reads ++ [v]

/-! ## Commands (42_commands.md R195 to R199, 60_exceptions.md R220 to R225) -/

/-- NOP has no effect in any state, also while busy, and `0x00000010` is not NOP (R196). -/
def Obligations.NopHasNoEffect : Prop :=
  decode (.cmd 0x00000000#32) = .ok .nop ∧
  (∀ s : State, exec .nop s = .next s ∧ exec (.regWr 0#6 0x00000000#32) s = .next s) ∧
  decode (.cmd 0x00000010#32) = .rejected .illegalCommand

/-- A REG_WR of a command word to CMD runs that command (R192, R195). -/
def Obligations.CmdWritesRunTheirCommand : Prop :=
  ∀ (w : Word) (i : Instr) (s : State), decode (.cmd w) = .ok i → exec (.regWr 0#6 w) s = exec i s

/-- The illegal words are those with OP 0x4 to 0xE or RSVD nonzero. Written while idle one clears DONE, records
E_ILLEGAL_CMD if no error stands, and starts nothing; written while busy it is dropped with OVR (30_encoding.md R102;
42_commands.md R195). -/
def Obligations.IllegalCommandWordsRaiseAnError : Prop :=
  ∀ w : Word,
    (decode (.cmd w) = .rejected .illegalCommand ↔
      (4 ≤ w.toNat % 2 ^ 4 ∧ w.toNat % 2 ^ 4 ≤ 0xE) ∨ w.toNat / 2 ^ 4 ≠ 0) ∧
    ((∃ i, decode (.cmd w) = .ok i) ↔ w = 0#32 ∨ w = 1#32 ∨ w = 2#32 ∨ w = 3#32 ∨ w = 0xF#32) ∧
    (decode (.cmd w) = .rejected .illegalCommand → ∀ s : State,
      (s.busy = true → exec (.regWr 0#6 w) s = .next { s with ovr := true }) ∧
      (s.busy = false → ∃ t, exec (.regWr 0#6 w) s = .next t ∧
        t.err = (if s.err = .none then .illegalCmd else s.err) ∧ t.engine = .idle ∧
        t = { s with done := false, err := t.err, engine := .idle, busy := false, chain := false }))

/-- The checks of PACK, MUX and ENCODE written while idle, in the order of 60_exceptions.md R225: the sticky error, the
frame size, the missing video, the audio size; at most one error is raised, and it stops before any start. An illegal
word is reported whatever the checks would find. -/
def Obligations.CommandChecksDecideInOrder : Prop :=
  ∀ s : State, s.busy = false →
    let failed (code : ErrCode) : Host.Outcome State Fault Refusal :=
      .next { s with done := false, err := code, engine := .idle, busy := false, chain := false }
    (s.err = .none → ∀ w, decode (.cmd w) = .rejected .illegalCommand → exec (.regWr 0#6 w) s = failed .illegalCmd) ∧
    (s.err ≠ .none →
      exec .pack s = .next { s with done := false } ∧ exec .mux s = .next { s with done := false } ∧
      exec .encode s = .next { s with done := false }) ∧
    (s.err = .none → s.ifbLen.toNat ≠ 207360 →
      exec .pack s = failed .frameSize ∧ exec .encode s = failed .frameSize) ∧
    (s.err = .none → s.pvbValid = false → exec .mux s = failed .noVideo) ∧
    (s.err = .none → s.pvbValid = true → s.afbLen.toNat ≠ 1960 → exec .mux s = failed .audioSize) ∧
    (s.err = .none → s.ifbLen.toNat = 207360 → s.afbLen.toNat ≠ 1960 → exec .encode s = failed .audioSize) ∧
    (s.err = .none → s.ifbLen.toNat = 207360 → ∃ t, exec .pack s = .next t ∧ t.err = .none ∧ t.engine = .packer) ∧
    (s.err = .none → s.pvbValid = true → s.afbLen.toNat = 1960 →
      ∃ t, exec .mux s = .next t ∧ t.err = .none ∧ t.engine = .multiplexer) ∧
    (s.err = .none → s.ifbLen.toNat = 207360 → s.afbLen.toNat = 1960 →
      ∃ t, exec .encode s = .next t ∧ t.err = .none ∧ t.engine = .packer)

/-- PACK starts the packer at triplet (0, 0), whatever PVB held (R197), and changes nothing else. -/
def Obligations.PackStartsThePacker : Prop :=
  ∀ s : State, s.busy = false → s.err = .none → s.ifbLen.toNat = 207360 →
    exec .pack s = .next { s with
      done := false, pvbValid := false, chain := false, row := 0#8, trip := 0#6, engine := .packer, busy := true }

/-- MUX starts the multiplexer at payload offset 0 (R198), and changes nothing else. -/
def Obligations.MuxStartsTheMultiplexer : Prop :=
  ∀ s : State, s.busy = false → s.err = .none → s.pvbValid = true → s.afbLen.toNat = 1960 →
    exec .mux s = .next { s with
      done := false, group := 0#11, byte := 0#4, engine := .multiplexer, busy := true }

/-- ENCODE starts the packer with CHAIN set (R199), and changes nothing else. -/
def Obligations.EncodeStartsThePackerChained : Prop :=
  ∀ s : State, s.busy = false → s.err = .none → s.ifbLen.toNat = 207360 → s.afbLen.toNat = 1960 →
    exec .encode s = .next { s with
      done := false, pvbValid := false, chain := true, row := 0#8, trip := 0#6, engine := .packer, busy := true }

/-- A command other than RESET writes no buffer byte, no length, no position of an engine it does not start, and neither
the ROM nor the ports (R195 to R199). -/
def Obligations.CommandsKeepBuffersAndPorts : Prop :=
  ∀ (i : Instr) (s t : State), i = .nop ∨ i = .pack ∨ i = .mux ∨ i = .encode → exec i s = .next t →
    (∀ a, t.ifb.read a = s.ifb.read a ∧ t.pvb.read a = s.pvb.read a ∧ t.afb.read a = s.afb.read a) ∧
    t.ifbLen = s.ifbLen ∧ t.afbLen = s.afbLen ∧ t.frames = s.frames ∧ t.rom = s.rom ∧ t.offered = s.offered ∧
    t.accepted = s.accepted ∧ t.sink = s.sink ∧ t.inputs = s.inputs ∧ t.reads = s.reads ∧ t.draws = s.draws ∧
    (i = .mux → t.row = s.row ∧ t.trip = s.trip ∧ t.pvbValid = s.pvbValid) ∧
    (i ≠ .mux → t.group = s.group ∧ t.byte = s.byte)

/-- An instruction that records the first error stops the block and changes no other register, no buffer byte and no
written mark (60_exceptions.md R222, R230): DONE is 0 and an unanswered byte is no longer offered. -/
def Obligations.ErrorsStopTheBlockAndNothingElse : Prop :=
  ∀ (i : Instr) (s t : State), s.Inv → exec i s = .next t → s.err = .none → t.err ≠ .none →
    t = { s with
      err := t.err, engine := .idle, busy := false, chain := false, done := false, offered := none, sink := t.sink }

/-- While ERR is nonzero PACK, MUX and ENCODE only clear DONE, and no step but a reset changes ERR (60_exceptions.md
R223). -/
def Obligations.ErrorsAreSticky : Prop :=
  (∀ s : State, s.err ≠ .none → s.busy = false →
    exec .pack s = .next { s with done := false } ∧ exec .mux s = .next { s with done := false } ∧
    exec .encode s = .next { s with done := false }) ∧
  ∀ s t : State, s.err ≠ .none → step s = .next t → (ResetsNext s → t.err = .none) ∧ (¬ ResetsNext s → t.err = s.err)

/-- OVR is set when a host write is dropped, cleared only by a reset, and set by nothing else (10_state.md R39,
60_exceptions.md R224). -/
def Obligations.OvrLastsUntilReset : Prop :=
  ∀ s t : State, step s = .next t →
    (ResetsNext s → t.ovr = false) ∧
    (¬ ResetsNext s → s.ovr = true → t.ovr = true) ∧
    (s.ovr = false → t.ovr = true → s.busy = true ∧ t = { s with ovr := true, inputs := t.inputs })

/-! ## The packer (40_pixel_packer.md) -/

/-- PACK_EVEN at row `o` and triplet `t` packs R0 G0 B0 R1 G1 B1 into the triplet at `108*o + 3*t`, first-named channel
in the high nibble, writes no other PVB byte, and advances (R130 to R134). An unwritten source byte faults. -/
def Obligations.PackEvenPacksItsTriplet : Prop :=
  ∀ s : State, s.engine = .packer → s.row.toNat < 160 → s.row.toNat % 2 = 0 → s.trip.toNat < 36 →
    let a := ((159 - s.row.toNat) * 432 + 12 * s.trip.toNat) * 3
    let d := 108 * s.row.toNat + 3 * s.trip.toNat
    (∀ r0 g0 b0 r1 g1 b1 : Byte,
      s.ifb.read a = some r0 → s.ifb.read (a + 1) = some g0 → s.ifb.read (a + 2) = some b0 →
      s.ifb.read (a + 3) = some r1 → s.ifb.read (a + 4) = some g1 → s.ifb.read (a + 5) = some b1 →
      ∃ m, exec .packEven s = .next (packAdvance { s with pvb := m }) ∧
        m.read d = some ((r0 &&& 0xF0#8) ||| (g0 >>> 4)) ∧
        m.read (d + 1) = some ((b0 &&& 0xF0#8) ||| (r1 >>> 4)) ∧
        m.read (d + 2) = some ((g1 &&& 0xF0#8) ||| (b1 >>> 4)) ∧
        ∀ x, x ≠ d → x ≠ d + 1 → x ≠ d + 2 → m.read x = s.pvb.read x) ∧
    ((∃ k < 6, s.ifb.read (a + k) = none) → exec .packEven s = .fault .unwrittenRead) ∧
    decode (.uop (seqUop s)) = .ok .packEven

/-- PACK_ODD likewise, in the order G0 B0 R0 G1 B1 R1 (R130 to R133, R135). -/
def Obligations.PackOddPacksItsTriplet : Prop :=
  ∀ s : State, s.engine = .packer → s.row.toNat < 160 → s.row.toNat % 2 = 1 → s.trip.toNat < 36 →
    let a := ((159 - s.row.toNat) * 432 + 12 * s.trip.toNat) * 3
    let d := 108 * s.row.toNat + 3 * s.trip.toNat
    (∀ r0 g0 b0 r1 g1 b1 : Byte,
      s.ifb.read a = some r0 → s.ifb.read (a + 1) = some g0 → s.ifb.read (a + 2) = some b0 →
      s.ifb.read (a + 3) = some r1 → s.ifb.read (a + 4) = some g1 → s.ifb.read (a + 5) = some b1 →
      ∃ m, exec .packOdd s = .next (packAdvance { s with pvb := m }) ∧
        m.read d = some ((g0 &&& 0xF0#8) ||| (b0 >>> 4)) ∧
        m.read (d + 1) = some ((r0 &&& 0xF0#8) ||| (g1 >>> 4)) ∧
        m.read (d + 2) = some ((b1 &&& 0xF0#8) ||| (r1 >>> 4)) ∧
        ∀ x, x ≠ d → x ≠ d + 1 → x ≠ d + 2 → m.read x = s.pvb.read x) ∧
    ((∃ k < 6, s.ifb.read (a + k) = none) → exec .packOdd s = .fault .unwrittenRead) ∧
    decode (.uop (seqUop s)) = .ok .packOdd

/-- Where a PACK micro-op that completes leaves the position: the next triplet of the row, or the first of the next row
(R136). Nothing else but PVB changes then. -/
def Obligations.PackMicroOpsAdvance : Prop :=
  ∀ (i : Instr) (s t : State), i = .packEven ∨ i = .packOdd → exec i s = .next t →
    (s.trip.toNat < 35 → t.trip.toNat = s.trip.toNat + 1 ∧ t = { s with pvb := t.pvb, trip := t.trip }) ∧
    (s.trip.toNat = 35 → s.row.toNat < 159 →
      t.row.toNat = s.row.toNat + 1 ∧ t = { s with pvb := t.pvb, trip := 0#6, row := t.row })

/-- The completion of the packer, part of the micro-op at (159, 35) (R137): the frame is consumed, and the block is idle
and done, or, with CHAIN, the multiplexer starts. -/
def Obligations.PackCompletionHandsOver : Prop :=
  ∀ s t : State, exec .packOdd s = .next t → s.row.toNat = 159 → s.trip.toNat = 35 →
    (s.chain = false → t = { s with
      pvb := t.pvb, row := 160#8, trip := 0#6, pvbValid := true, ifbLen := 0#18,
      engine := .idle, busy := false, done := true }) ∧
    (s.chain = true → t = { s with
      pvb := t.pvb, row := 160#8, trip := 0#6, pvbValid := true, ifbLen := 0#18, chain := false,
      group := 0#11, byte := 0#4, engine := .multiplexer, busy := true })

/-- The frame of the PACK micro-ops: IFB, AFB and every PVB byte but the three of the triplet read as before; no error,
no OVR, no FRAMES, no AFB_LEN, no ROM, no port changes (R134, R135, R137; 20_memory.md R85). -/
def Obligations.PackMicroOpsKeepTheRest : Prop :=
  ∀ (i : Instr) (s t : State), i = .packEven ∨ i = .packOdd → exec i s = .next t →
    (∀ a, t.ifb.read a = s.ifb.read a ∧ t.afb.read a = s.afb.read a) ∧
    (∀ a, ¬ (pvbOff s.row.toNat s.trip.toNat 0 ≤ a ∧ a < pvbOff s.row.toNat s.trip.toNat 0 + 3) →
      t.pvb.read a = s.pvb.read a) ∧
    t.err = s.err ∧ t.ovr = s.ovr ∧ t.frames = s.frames ∧ t.afbLen = s.afbLen ∧ t.rom = s.rom ∧
    t.offered = s.offered ∧ t.accepted = s.accepted ∧ t.sink = s.sink ∧ t.inputs = s.inputs ∧ t.reads = s.reads ∧
    t.draws = s.draws

/-- The packed bytes depend only on bits 7:4 of the IFB bytes of the columns `c` with `c mod 12` 0 or 1: another frame
with those bits alike gives the same step but for IFB itself (R140). -/
def Obligations.PackDependsOnHighNibblesOfTwoColumns : Prop :=
  ∀ (i : Instr) (s t : State) (m : Memory), i = .packEven ∨ i = .packOdd →
    (∀ r c k, r < 160 → c < 432 → k < 3 → c % 12 < 2 →
      (m.read (ifbOff r c k)).map (fun x : Byte => x >>> 4) =
        (s.ifb.read (ifbOff r c k)).map (fun x : Byte => x >>> 4)) →
    exec i s = .next t → exec i { s with ifb := m } = .next { t with ifb := m }

/-- A PACK of a written frame `F`, with nothing else happening, completes after its command and 5760 micro-ops, and
leaves `PVB = PackFrame(F)` (R136, R138; 42_commands.md R197). That nothing else happens is the model's list `inputs`
holding the command alone, log 1. -/
def Obligations.PackRunLeavesThePackedFrame : Prop :=
  ∀ (s : State) (F : Nat → Byte), s.busy = false → s.err = .none → s.ifbLen.toNat = 207360 →
    s.inputs = [.cmd 0x00000001#32] → (∀ a < 207360, s.ifb.read a = some (F a)) →
    ∃ t : State, Host.Core.run Sys2Proof.core 5761 s = .next t ∧
      (∀ o r j, o < 160 → r < 36 → j < 3 → t.pvb.read (108 * o + 3 * r + j) = some (packFrame F o r j)) ∧
      t = { s with
        pvb := t.pvb, inputs := [], pvbValid := true, done := true, chain := false, engine := .idle, busy := false,
        ifbLen := 0#18, row := 160#8, trip := 0#6 }

/-! ## The multiplexer (41_frame_multiplexer.md) -/

/-- MUX_SYNC1 offers `SYNC1[j]`, MUX_SYNC2 `SYNC2[i - 24][j]` and MUX_SYNC3 0xFF; accepted, the byte is at the sink and
the position advances (R162, R163, R164). That the ROM holds 0xFF for SYNC3 is part of the invariant. -/
def Obligations.SyncMicroOpsEmitTheRom : Prop :=
  ∀ (s : State) (rest : List SinkAnswer), s.engine = .multiplexer → s.sink = .accept :: rest →
    let sent (v : Byte) : Host.Outcome State Fault Refusal :=
      .next (muxAdvance { s with offered := none, accepted := s.accepted ++ [v], sink := rest })
    (∀ j : Fin 9, s.byte.toNat = j.val → s.group.toNat < 24 → exec .muxSync1 s = sent s.rom.sync1[j]) ∧
    (∀ (j : Fin 9) (r : Fin 12), s.byte.toNat = j.val → s.group.toNat = 24 + r.val →
      exec .muxSync2 s = sent s.rom.sync2[r][j]) ∧
    (s.rom.sync3 = Vector.replicate 9 0xFF#8 → s.byte.toNat < 9 → 36 ≤ s.group.toNat → s.group.toNat < 40 →
      exec .muxSync3 s = sent 0xFF#8)

/-- MUX_VIDEO offers `PVB[9*(i - 40) + j]` and MUX_AUDIO `AFB[i]`; an unwritten byte faults before anything is offered
(R165, R166; 60_exceptions.md R226). -/
def Obligations.VideoAndAudioMicroOpsEmitTheBuffers : Prop :=
  ∀ s : State, s.engine = .multiplexer →
    (s.byte.toNat < 9 → 40 ≤ s.group.toNat → s.group.toNat < 1960 →
      (s.pvb.read (9 * (s.group.toNat - 40) + s.byte.toNat) = none → exec .muxVideo s = .fault .unwrittenRead) ∧
      ∀ v rest, s.pvb.read (9 * (s.group.toNat - 40) + s.byte.toNat) = some v → s.sink = .accept :: rest →
        exec .muxVideo s =
          .next (muxAdvance { s with offered := none, accepted := s.accepted ++ [v], sink := rest })) ∧
    (s.byte.toNat = 9 → s.group.toNat < 1960 →
      (s.afb.read s.group.toNat = none → exec .muxAudio s = .fault .unwrittenRead) ∧
      ∀ v rest, s.afb.read s.group.toNat = some v → s.sink = .accept :: rest →
        exec .muxAudio s =
          .next (muxAdvance { s with offered := none, accepted := s.accepted ++ [v], sink := rest }))

/-- The emission step (R167) of the micro-op the position names, whose byte `MuxByte(i, j)` is defined: without an
answer the byte stands offered and nothing else changes; ACCEPT advances; FAIL records E_SINK and leaves the position,
the frame, AFB_LEN and FRAMES (60_exceptions.md R227); both at once is refused. That waiting is a step is the model's
choice, log 7. -/
def Obligations.EmissionFollowsTheSinksAnswer : Prop :=
  ∀ (i : Instr) (s : State) (v : Byte), decode (.uop (seqUop s)) = .ok i → s.engine = .multiplexer →
    muxByte s s.group.toNat s.byte.toNat = some v →
    (s.sink = [] → exec i s = .next { s with offered := some v }) ∧
    (∀ rest, s.sink = .noAnswer :: rest → exec i s = .next { s with offered := some v, sink := rest }) ∧
    (∀ rest, s.sink = .accept :: rest →
      exec i s = .next (muxAdvance { s with offered := none, accepted := s.accepted ++ [v], sink := rest })) ∧
    (∀ rest, s.sink = .fail :: rest → exec i s = .next { s with
      offered := none, sink := rest, err := if s.err = .none then .sink else s.err,
      engine := .idle, busy := false, chain := false }) ∧
    (∀ rest, s.sink = .readyAndFail :: rest → exec i s = .refused .sinkProtocol)

/-- Where an accepted byte leaves the position: the next byte of the group, or the first of the next group (R168); and
the completion at (1959, 9), which consumes the audio and the packed frame and counts the payload modulo 2^32 (R169). -/
def Obligations.AcceptedBytesAdvanceOrComplete : Prop :=
  ∀ (i : Instr) (s t : State) (rest : List SinkAnswer),
    i = .muxSync1 ∨ i = .muxSync2 ∨ i = .muxSync3 ∨ i = .muxVideo ∨ i = .muxAudio →
    exec i s = .next t → s.sink = .accept :: rest →
    let u := { s with offered := none, accepted := t.accepted, sink := rest }
    (s.byte.toNat < 9 → t.byte.toNat = s.byte.toNat + 1 ∧ t = { u with byte := t.byte }) ∧
    (s.byte.toNat = 9 → s.group.toNat < 1959 →
      t.group.toNat = s.group.toNat + 1 ∧ t = { u with byte := 0#4, group := t.group }) ∧
    (s.byte.toNat = 9 → s.group.toNat = 1959 →
      t.frames.toNat = (s.frames.toNat + 1) % 2 ^ 32 ∧
      t = { u with
        byte := 0#4, group := 1960#11, afbLen := 0#11, pvbValid := false, frames := t.frames,
        engine := .idle, busy := false, done := true })

/-- The frame of the MUX micro-ops: no buffer byte, no ROM, no packer position, no length but AFB_LEN, no OVR, no input
and no read record changes (R162 to R169; 20_memory.md R85). -/
def Obligations.MuxMicroOpsKeepTheRest : Prop :=
  ∀ (i : Instr) (s t : State),
    i = .muxSync1 ∨ i = .muxSync2 ∨ i = .muxSync3 ∨ i = .muxVideo ∨ i = .muxAudio → exec i s = .next t →
    (∀ a, t.ifb.read a = s.ifb.read a ∧ t.pvb.read a = s.pvb.read a ∧ t.afb.read a = s.afb.read a) ∧
    t.rom = s.rom ∧ t.row = s.row ∧ t.trip = s.trip ∧ t.ifbLen = s.ifbLen ∧ t.ovr = s.ovr ∧
    t.inputs = s.inputs ∧ t.reads = s.reads ∧ t.draws = s.draws

/-- While the multiplexer runs, the sink holds after `base` exactly payload offsets 0 to `10*i + j - 1`, MUX_POS being
`(i, j)`; every step keeps this, through the completion (then all 19,600, R170) and through a sink failure, and a reset
retracts nothing (R173). -/
def Obligations.SinkHoldsThePayloadPrefix : Prop :=
  ∀ (base : List Byte) (s t : State), s.Inv → s.engine = .multiplexer →
    PayloadPrefix base s (10 * s.group.toNat + s.byte.toNat) → step s = .next t →
    (ResetsNext s → t.accepted = s.accepted) ∧
    (¬ ResetsNext s →
      PayloadPrefix base t (10 * t.group.toNat + t.byte.toNat) ∧
      (t.engine = .multiplexer ∨
        (t.engine = .idle ∧ t.err = .sink ∧ t.group = s.group ∧ t.byte = s.byte) ∨
        (t.engine = .idle ∧ t.done = true ∧ 10 * t.group.toNat + t.byte.toNat = 19600)))

/-- A MUX with a sink that accepts every byte, and nothing else happening, completes after its command and 19,600
micro-ops: the sink has received exactly the payload, in order (R160, R170; 42_commands.md R198). That nothing else
happens and how the sink answers are the model's lists `inputs` and `sink`, log 1 and log 2. -/
def Obligations.MuxRunEmitsThePayload : Prop :=
  ∀ (s : State) (more : List SinkAnswer), s.busy = false → s.err = .none → s.pvbValid = true →
    s.afbLen.toNat = 1960 → s.inputs = [.cmd 0x00000002#32] → s.sink = List.replicate 19600 .accept ++ more →
    s.offered = none → s.pvb.Written 17280 → s.afb.Written 1960 →
    ∃ t : State, Host.Core.run Sys2Proof.core 19601 s = .next t ∧ PayloadPrefix s.accepted t 19600 ∧
      t = { s with
        accepted := t.accepted, inputs := [], sink := more, pvbValid := false, done := true, engine := .idle,
        busy := false, afbLen := 0#11, group := 1960#11, byte := 0#4, frames := s.frames + 1#32 }

/-- An ENCODE of a written frame `F` and audio, with a sink that accepts every byte and nothing else happening, completes
after its command and 25,360 micro-ops: PVB holds `PackFrame(F)` and the sink has received exactly its payload
(42_commands.md R199; 70_reset_and_hazards.md R275). That nothing else happens and how the sink answers are the model's
lists `inputs` and `sink`, log 1 and log 2. -/
def Obligations.EncodeRunPacksAndEmits : Prop :=
  ∀ (s : State) (F : Nat → Byte) (more : List SinkAnswer), s.busy = false → s.err = .none →
    s.ifbLen.toNat = 207360 → s.afbLen.toNat = 1960 → s.inputs = [.cmd 0x00000003#32] →
    s.sink = List.replicate 19600 .accept ++ more → s.offered = none →
    (∀ a < 207360, s.ifb.read a = some (F a)) → s.afb.Written 1960 →
    ∃ t : State, Host.Core.run Sys2Proof.core 25361 s = .next t ∧
      (∀ o r j, o < 160 → r < 36 → j < 3 → t.pvb.read (108 * o + 3 * r + j) = some (packFrame F o r j)) ∧
      PayloadPrefix s.accepted t 19600 ∧
      t = { s with
        pvb := t.pvb, accepted := t.accepted, inputs := [], sink := more, pvbValid := false, done := true,
        chain := false, engine := .idle, busy := false, ifbLen := 0#18, afbLen := 0#11, row := 160#8, trip := 0#6,
        group := 1960#11, byte := 0#4, frames := s.frames + 1#32 }

/-- The hand-over of ENCODE is PACK's completion followed by MUX: the same triplet packed with CHAIN set, and packed
without it and then given the command MUX, leave the same state, if the audio is loaded (70_reset_and_hazards.md
R274). -/
def Obligations.EncodeHandOverIsPackThenMux : Prop :=
  ∀ s t u : State, s.err = .none → s.done = false → s.afbLen.toNat = 1960 → s.row.toNat = 159 → s.trip.toNat = 35 →
    exec .packOdd { s with chain := true } = .next t → exec .packOdd { s with chain := false } = .next u →
    exec .mux u = .next t

/-! ## The whole machine -/

/-- Power-on with any inputs, sink answers and sync tables satisfies the invariant (10_state.md R55, R56). -/
def Obligations.LaunchStatesSatisfyTheInvariant : Prop :=
  ∀ s : State, Launch s → s.Inv

/-- Every step keeps the invariant, from every state that has it (10_state.md R56; 20_memory.md R91). -/
def Obligations.StepsKeepTheInvariant : Prop :=
  ∀ s t : State, s.Inv → step s = .next t → t.Inv

/-- Every reachable state satisfies the invariants of 10_state.md R56. -/
def Obligations.ReachableStatesAreLegal : Prop :=
  ∀ s t : State, Launch s → Reaches s t → t.Legal

/-- Every step keeps each buffer's offsets strictly rising and inside the buffer, from every state whose buffers are so. -/
def Obligations.StepsKeepTheBuffersCanonical : Prop :=
  ∀ s t : State, s.ifb.wf 207360 → s.pvb.wf 17280 → s.afb.wf 1960 → step s = .next t →
    t.ifb.wf 207360 ∧ t.pvb.wf 17280 ∧ t.afb.wf 1960

/-- Every step keeps PVB written as far as it is packed: wholly while PVB_VALID is 1, so that MUX_VIDEO meets no
unwritten byte after a completed PACK (41_frame_multiplexer.md R165). -/
def Obligations.PackedBytesAreWritten : Prop :=
  ∀ s : State, s.Inv → PackedSoFar s →
    (∀ t, step s = .next t → PackedSoFar t) ∧ exec .muxVideo s ≠ .fault .unwrittenRead

/-- Under the invariant the sequencer is never outside its frame or payload, and no state steps into a micro-op its
position does not name (10_state.md R31, R46; 42_commands.md R201). -/
def Obligations.PositionsNeverLeaveTheSchedule : Prop :=
  (∀ s : State, s.Inv → step s ≠ .fault .badPosition) ∧ ∀ s : State, step s ≠ .refused .noSuchStep

/-- No step changes the sync ROM (10_state.md R52). -/
def Obligations.SyncRomNeverChanges : Prop :=
  ∀ s t : State, step s = .next t → t.rom = s.rom

/-- No step but a reset changes IFB, AFB or AFB_LEN while an engine runs, AFB_LEN but at the multiplexer's completion,
and PVB is changed by the packer only (20_memory.md R85, R91). -/
def Obligations.EngineInputsAreFrozenWhileBusy : Prop :=
  ∀ s t : State, s.busy = true → step s = .next t → ¬ ResetsNext s →
    t.ifb = s.ifb ∧ t.afb = s.afb ∧ (t.afbLen = s.afbLen ∨ t.frames = s.frames + 1#32) ∧
    (s.engine ≠ .packer → t.pvb = s.pvb)

/-- FRAMES counts the accepted bytes of position (1959, 9) since the last reset: only such a byte changes it but a
reset (10_state.md R47). -/
def Obligations.FramesCountsCompletedPayloads : Prop :=
  ∀ s t : State, step s = .next t →
    (ResetsNext s → t.frames = 0#32) ∧
    (¬ ResetsNext s → t.frames =
      if s.engine = .multiplexer ∧ s.group.toNat = 1959 ∧ s.byte.toNat = 9 ∧ t.accepted ≠ s.accepted
      then s.frames + 1#32 else s.frames)

/-- Each step gives the sink at most one byte, the byte of the multiplexer's position, and takes none back (20_memory.md
R83, R96). -/
def Obligations.SinkReceivesOnlyTheNextByte : Prop :=
  ∀ s t : State, step s = .next t →
    t.accepted = s.accepted ∨
    ∃ v, t.accepted = s.accepted ++ [v] ∧ s.engine = .multiplexer ∧
      muxByte s s.group.toNat s.byte.toNat = some v
end

