-- ==== Sys2Proof/Laws/Decode.lean ====
section
/-! SUPPORT. The fields of a bus descriptor (30_encoding.md R105). -/

namespace Sys2Proof

theorem busDescriptor_toNat (wr : Bool) (size : BitVec 2) {addr : Nat} (h : addr < 2 ^ 20) :
    (busDescriptor wr size addr).toNat = wr.toNat * 2 ^ 22 + size.toNat * 2 ^ 20 + addr := by
  have e : (BitVec.ofNat 20 addr).toNat = addr := by simp; omega
  simp only [busDescriptor, BitVec.toNat_append, e]
  rw [← Nat.shiftLeft_add_eq_or_of_lt size.isLt, ← Nat.shiftLeft_add_eq_or_of_lt h]
  simp only [Nat.shiftLeft_eq, BitVec.toNat_ofBool]
  omega

theorem busAddr_busDescriptor (wr : Bool) (size : BitVec 2) {addr : Nat} (h : addr < 2 ^ 20) :
    busAddr (busDescriptor wr size addr) = addr := by
  simp only [busAddr, BitVec.extractLsb'_toNat, busDescriptor_toNat wr size h, Nat.shiftRight_zero]
  have := wr.toNat_lt
  have := size.isLt
  omega

theorem busSize_busDescriptor (wr : Bool) (size : BitVec 2) {addr : Nat} (h : addr < 2 ^ 20) :
    busSize (busDescriptor wr size addr) = size := by
  apply BitVec.eq_of_toNat_eq
  simp only [busSize, BitVec.extractLsb'_toNat, busDescriptor_toNat wr size h, Nat.shiftRight_eq_div_pow]
  have := wr.toNat_lt
  have := size.isLt
  omega

theorem busWr_busDescriptor (wr : Bool) (size : BitVec 2) {addr : Nat} (h : addr < 2 ^ 20) :
    busWr (busDescriptor wr size addr) = wr := by
  simp only [busWr, BitVec.getLsbD, Nat.testBit_eq_decide_div_mod_eq, busDescriptor_toNat wr size h]
  have := size.isLt
  cases wr <;> simp <;> omega

@[simp] theorem dataByte_setWidth (v : Byte) : dataByte (v.setWidth 32) = v := by
  apply BitVec.eq_of_toNat_eq
  simp [dataByte]
  omega

end Sys2Proof
end

