-- ==== Sys2Proof/Laws/State.lean ====
section
/-! SUPPORT. One lemma for each field of State and each named update of it, so that no proof unfolds a record update. -/

namespace Sys2Proof.Machine

/-! ### dropWrite -/

@[simp] theorem dropWrite_busy (s : State) : (dropWrite s).busy = s.busy := rfl
@[simp] theorem dropWrite_pvbValid (s : State) : (dropWrite s).pvbValid = s.pvbValid := rfl
@[simp] theorem dropWrite_done (s : State) : (dropWrite s).done = s.done := rfl
@[simp] theorem dropWrite_ovr (s : State) : (dropWrite s).ovr = true := rfl
@[simp] theorem dropWrite_err (s : State) : (dropWrite s).err = s.err := rfl
@[simp] theorem dropWrite_engine (s : State) : (dropWrite s).engine = s.engine := rfl
@[simp] theorem dropWrite_chain (s : State) : (dropWrite s).chain = s.chain := rfl
@[simp] theorem dropWrite_ifbLen (s : State) : (dropWrite s).ifbLen = s.ifbLen := rfl
@[simp] theorem dropWrite_afbLen (s : State) : (dropWrite s).afbLen = s.afbLen := rfl
@[simp] theorem dropWrite_row (s : State) : (dropWrite s).row = s.row := rfl
@[simp] theorem dropWrite_trip (s : State) : (dropWrite s).trip = s.trip := rfl
@[simp] theorem dropWrite_group (s : State) : (dropWrite s).group = s.group := rfl
@[simp] theorem dropWrite_byte (s : State) : (dropWrite s).byte = s.byte := rfl
@[simp] theorem dropWrite_frames (s : State) : (dropWrite s).frames = s.frames := rfl
@[simp] theorem dropWrite_ifb (s : State) : (dropWrite s).ifb = s.ifb := rfl
@[simp] theorem dropWrite_pvb (s : State) : (dropWrite s).pvb = s.pvb := rfl
@[simp] theorem dropWrite_afb (s : State) : (dropWrite s).afb = s.afb := rfl
@[simp] theorem dropWrite_rom (s : State) : (dropWrite s).rom = s.rom := rfl
@[simp] theorem dropWrite_offered (s : State) : (dropWrite s).offered = s.offered := rfl
@[simp] theorem dropWrite_accepted (s : State) : (dropWrite s).accepted = s.accepted := rfl
@[simp] theorem dropWrite_sink (s : State) : (dropWrite s).sink = s.sink := rfl
@[simp] theorem dropWrite_inputs (s : State) : (dropWrite s).inputs = s.inputs := rfl
@[simp] theorem dropWrite_reads (s : State) : (dropWrite s).reads = s.reads := rfl
@[simp] theorem dropWrite_draws (s : State) : (dropWrite s).draws = s.draws := rfl

/-! ### clearDone -/

@[simp] theorem clearDone_busy (s : State) : (clearDone s).busy = s.busy := rfl
@[simp] theorem clearDone_pvbValid (s : State) : (clearDone s).pvbValid = s.pvbValid := rfl
@[simp] theorem clearDone_done (s : State) : (clearDone s).done = false := rfl
@[simp] theorem clearDone_ovr (s : State) : (clearDone s).ovr = s.ovr := rfl
@[simp] theorem clearDone_err (s : State) : (clearDone s).err = s.err := rfl
@[simp] theorem clearDone_engine (s : State) : (clearDone s).engine = s.engine := rfl
@[simp] theorem clearDone_chain (s : State) : (clearDone s).chain = s.chain := rfl
@[simp] theorem clearDone_ifbLen (s : State) : (clearDone s).ifbLen = s.ifbLen := rfl
@[simp] theorem clearDone_afbLen (s : State) : (clearDone s).afbLen = s.afbLen := rfl
@[simp] theorem clearDone_row (s : State) : (clearDone s).row = s.row := rfl
@[simp] theorem clearDone_trip (s : State) : (clearDone s).trip = s.trip := rfl
@[simp] theorem clearDone_group (s : State) : (clearDone s).group = s.group := rfl
@[simp] theorem clearDone_byte (s : State) : (clearDone s).byte = s.byte := rfl
@[simp] theorem clearDone_frames (s : State) : (clearDone s).frames = s.frames := rfl
@[simp] theorem clearDone_ifb (s : State) : (clearDone s).ifb = s.ifb := rfl
@[simp] theorem clearDone_pvb (s : State) : (clearDone s).pvb = s.pvb := rfl
@[simp] theorem clearDone_afb (s : State) : (clearDone s).afb = s.afb := rfl
@[simp] theorem clearDone_rom (s : State) : (clearDone s).rom = s.rom := rfl
@[simp] theorem clearDone_offered (s : State) : (clearDone s).offered = s.offered := rfl
@[simp] theorem clearDone_accepted (s : State) : (clearDone s).accepted = s.accepted := rfl
@[simp] theorem clearDone_sink (s : State) : (clearDone s).sink = s.sink := rfl
@[simp] theorem clearDone_inputs (s : State) : (clearDone s).inputs = s.inputs := rfl
@[simp] theorem clearDone_reads (s : State) : (clearDone s).reads = s.reads := rfl
@[simp] theorem clearDone_draws (s : State) : (clearDone s).draws = s.draws := rfl

/-! ### raiseError -/

@[simp] theorem raiseError_busy (code : ErrCode) (s : State) : (raiseError code s).busy = false := rfl
@[simp] theorem raiseError_pvbValid (code : ErrCode) (s : State) : (raiseError code s).pvbValid = s.pvbValid := rfl
@[simp] theorem raiseError_done (code : ErrCode) (s : State) : (raiseError code s).done = s.done := rfl
@[simp] theorem raiseError_ovr (code : ErrCode) (s : State) : (raiseError code s).ovr = s.ovr := rfl
@[simp] theorem raiseError_err (code : ErrCode) (s : State) : (raiseError code s).err = if s.err = .none then code else s.err := rfl
@[simp] theorem raiseError_engine (code : ErrCode) (s : State) : (raiseError code s).engine = .idle := rfl
@[simp] theorem raiseError_chain (code : ErrCode) (s : State) : (raiseError code s).chain = false := rfl
@[simp] theorem raiseError_ifbLen (code : ErrCode) (s : State) : (raiseError code s).ifbLen = s.ifbLen := rfl
@[simp] theorem raiseError_afbLen (code : ErrCode) (s : State) : (raiseError code s).afbLen = s.afbLen := rfl
@[simp] theorem raiseError_row (code : ErrCode) (s : State) : (raiseError code s).row = s.row := rfl
@[simp] theorem raiseError_trip (code : ErrCode) (s : State) : (raiseError code s).trip = s.trip := rfl
@[simp] theorem raiseError_group (code : ErrCode) (s : State) : (raiseError code s).group = s.group := rfl
@[simp] theorem raiseError_byte (code : ErrCode) (s : State) : (raiseError code s).byte = s.byte := rfl
@[simp] theorem raiseError_frames (code : ErrCode) (s : State) : (raiseError code s).frames = s.frames := rfl
@[simp] theorem raiseError_ifb (code : ErrCode) (s : State) : (raiseError code s).ifb = s.ifb := rfl
@[simp] theorem raiseError_pvb (code : ErrCode) (s : State) : (raiseError code s).pvb = s.pvb := rfl
@[simp] theorem raiseError_afb (code : ErrCode) (s : State) : (raiseError code s).afb = s.afb := rfl
@[simp] theorem raiseError_rom (code : ErrCode) (s : State) : (raiseError code s).rom = s.rom := rfl
@[simp] theorem raiseError_offered (code : ErrCode) (s : State) : (raiseError code s).offered = s.offered := rfl
@[simp] theorem raiseError_accepted (code : ErrCode) (s : State) : (raiseError code s).accepted = s.accepted := rfl
@[simp] theorem raiseError_sink (code : ErrCode) (s : State) : (raiseError code s).sink = s.sink := rfl
@[simp] theorem raiseError_inputs (code : ErrCode) (s : State) : (raiseError code s).inputs = s.inputs := rfl
@[simp] theorem raiseError_reads (code : ErrCode) (s : State) : (raiseError code s).reads = s.reads := rfl
@[simp] theorem raiseError_draws (code : ErrCode) (s : State) : (raiseError code s).draws = s.draws := rfl

/-! ### resetBlock -/

@[simp] theorem resetBlock_busy (s : State) : (resetBlock s).busy = false := rfl
@[simp] theorem resetBlock_pvbValid (s : State) : (resetBlock s).pvbValid = false := rfl
@[simp] theorem resetBlock_done (s : State) : (resetBlock s).done = false := rfl
@[simp] theorem resetBlock_ovr (s : State) : (resetBlock s).ovr = false := rfl
@[simp] theorem resetBlock_err (s : State) : (resetBlock s).err = .none := rfl
@[simp] theorem resetBlock_engine (s : State) : (resetBlock s).engine = .idle := rfl
@[simp] theorem resetBlock_chain (s : State) : (resetBlock s).chain = false := rfl
@[simp] theorem resetBlock_ifbLen (s : State) : (resetBlock s).ifbLen = 0#18 := rfl
@[simp] theorem resetBlock_afbLen (s : State) : (resetBlock s).afbLen = 0#11 := rfl
@[simp] theorem resetBlock_row (s : State) : (resetBlock s).row = 0#8 := rfl
@[simp] theorem resetBlock_trip (s : State) : (resetBlock s).trip = 0#6 := rfl
@[simp] theorem resetBlock_group (s : State) : (resetBlock s).group = 0#11 := rfl
@[simp] theorem resetBlock_byte (s : State) : (resetBlock s).byte = 0#4 := rfl
@[simp] theorem resetBlock_frames (s : State) : (resetBlock s).frames = 0#32 := rfl
@[simp] theorem resetBlock_ifb (s : State) : (resetBlock s).ifb = [] := rfl
@[simp] theorem resetBlock_pvb (s : State) : (resetBlock s).pvb = [] := rfl
@[simp] theorem resetBlock_afb (s : State) : (resetBlock s).afb = [] := rfl
@[simp] theorem resetBlock_rom (s : State) : (resetBlock s).rom = s.rom := rfl
@[simp] theorem resetBlock_offered (s : State) : (resetBlock s).offered = none := rfl
@[simp] theorem resetBlock_accepted (s : State) : (resetBlock s).accepted = s.accepted := rfl
@[simp] theorem resetBlock_sink (s : State) : (resetBlock s).sink = s.sink := rfl
@[simp] theorem resetBlock_inputs (s : State) : (resetBlock s).inputs = s.inputs := rfl
@[simp] theorem resetBlock_reads (s : State) : (resetBlock s).reads = s.reads := rfl
@[simp] theorem resetBlock_draws (s : State) : (resetBlock s).draws = s.draws := rfl

/-! ### startPack -/

@[simp] theorem startPack_busy (s : State) : (startPack s).busy = true := rfl
@[simp] theorem startPack_pvbValid (s : State) : (startPack s).pvbValid = false := rfl
@[simp] theorem startPack_done (s : State) : (startPack s).done = s.done := rfl
@[simp] theorem startPack_ovr (s : State) : (startPack s).ovr = s.ovr := rfl
@[simp] theorem startPack_err (s : State) : (startPack s).err = s.err := rfl
@[simp] theorem startPack_engine (s : State) : (startPack s).engine = .packer := rfl
@[simp] theorem startPack_chain (s : State) : (startPack s).chain = false := rfl
@[simp] theorem startPack_ifbLen (s : State) : (startPack s).ifbLen = s.ifbLen := rfl
@[simp] theorem startPack_afbLen (s : State) : (startPack s).afbLen = s.afbLen := rfl
@[simp] theorem startPack_row (s : State) : (startPack s).row = 0#8 := rfl
@[simp] theorem startPack_trip (s : State) : (startPack s).trip = 0#6 := rfl
@[simp] theorem startPack_group (s : State) : (startPack s).group = s.group := rfl
@[simp] theorem startPack_byte (s : State) : (startPack s).byte = s.byte := rfl
@[simp] theorem startPack_frames (s : State) : (startPack s).frames = s.frames := rfl
@[simp] theorem startPack_ifb (s : State) : (startPack s).ifb = s.ifb := rfl
@[simp] theorem startPack_pvb (s : State) : (startPack s).pvb = s.pvb := rfl
@[simp] theorem startPack_afb (s : State) : (startPack s).afb = s.afb := rfl
@[simp] theorem startPack_rom (s : State) : (startPack s).rom = s.rom := rfl
@[simp] theorem startPack_offered (s : State) : (startPack s).offered = s.offered := rfl
@[simp] theorem startPack_accepted (s : State) : (startPack s).accepted = s.accepted := rfl
@[simp] theorem startPack_sink (s : State) : (startPack s).sink = s.sink := rfl
@[simp] theorem startPack_inputs (s : State) : (startPack s).inputs = s.inputs := rfl
@[simp] theorem startPack_reads (s : State) : (startPack s).reads = s.reads := rfl
@[simp] theorem startPack_draws (s : State) : (startPack s).draws = s.draws := rfl

/-! ### startEncode -/

@[simp] theorem startEncode_busy (s : State) : (startEncode s).busy = true := rfl
@[simp] theorem startEncode_pvbValid (s : State) : (startEncode s).pvbValid = false := rfl
@[simp] theorem startEncode_done (s : State) : (startEncode s).done = s.done := rfl
@[simp] theorem startEncode_ovr (s : State) : (startEncode s).ovr = s.ovr := rfl
@[simp] theorem startEncode_err (s : State) : (startEncode s).err = s.err := rfl
@[simp] theorem startEncode_engine (s : State) : (startEncode s).engine = .packer := rfl
@[simp] theorem startEncode_chain (s : State) : (startEncode s).chain = true := rfl
@[simp] theorem startEncode_ifbLen (s : State) : (startEncode s).ifbLen = s.ifbLen := rfl
@[simp] theorem startEncode_afbLen (s : State) : (startEncode s).afbLen = s.afbLen := rfl
@[simp] theorem startEncode_row (s : State) : (startEncode s).row = 0#8 := rfl
@[simp] theorem startEncode_trip (s : State) : (startEncode s).trip = 0#6 := rfl
@[simp] theorem startEncode_group (s : State) : (startEncode s).group = s.group := rfl
@[simp] theorem startEncode_byte (s : State) : (startEncode s).byte = s.byte := rfl
@[simp] theorem startEncode_frames (s : State) : (startEncode s).frames = s.frames := rfl
@[simp] theorem startEncode_ifb (s : State) : (startEncode s).ifb = s.ifb := rfl
@[simp] theorem startEncode_pvb (s : State) : (startEncode s).pvb = s.pvb := rfl
@[simp] theorem startEncode_afb (s : State) : (startEncode s).afb = s.afb := rfl
@[simp] theorem startEncode_rom (s : State) : (startEncode s).rom = s.rom := rfl
@[simp] theorem startEncode_offered (s : State) : (startEncode s).offered = s.offered := rfl
@[simp] theorem startEncode_accepted (s : State) : (startEncode s).accepted = s.accepted := rfl
@[simp] theorem startEncode_sink (s : State) : (startEncode s).sink = s.sink := rfl
@[simp] theorem startEncode_inputs (s : State) : (startEncode s).inputs = s.inputs := rfl
@[simp] theorem startEncode_reads (s : State) : (startEncode s).reads = s.reads := rfl
@[simp] theorem startEncode_draws (s : State) : (startEncode s).draws = s.draws := rfl

/-! ### startMux -/

@[simp] theorem startMux_busy (s : State) : (startMux s).busy = true := rfl
@[simp] theorem startMux_pvbValid (s : State) : (startMux s).pvbValid = s.pvbValid := rfl
@[simp] theorem startMux_done (s : State) : (startMux s).done = s.done := rfl
@[simp] theorem startMux_ovr (s : State) : (startMux s).ovr = s.ovr := rfl
@[simp] theorem startMux_err (s : State) : (startMux s).err = s.err := rfl
@[simp] theorem startMux_engine (s : State) : (startMux s).engine = .multiplexer := rfl
@[simp] theorem startMux_chain (s : State) : (startMux s).chain = s.chain := rfl
@[simp] theorem startMux_ifbLen (s : State) : (startMux s).ifbLen = s.ifbLen := rfl
@[simp] theorem startMux_afbLen (s : State) : (startMux s).afbLen = s.afbLen := rfl
@[simp] theorem startMux_row (s : State) : (startMux s).row = s.row := rfl
@[simp] theorem startMux_trip (s : State) : (startMux s).trip = s.trip := rfl
@[simp] theorem startMux_group (s : State) : (startMux s).group = 0#11 := rfl
@[simp] theorem startMux_byte (s : State) : (startMux s).byte = 0#4 := rfl
@[simp] theorem startMux_frames (s : State) : (startMux s).frames = s.frames := rfl
@[simp] theorem startMux_ifb (s : State) : (startMux s).ifb = s.ifb := rfl
@[simp] theorem startMux_pvb (s : State) : (startMux s).pvb = s.pvb := rfl
@[simp] theorem startMux_afb (s : State) : (startMux s).afb = s.afb := rfl
@[simp] theorem startMux_rom (s : State) : (startMux s).rom = s.rom := rfl
@[simp] theorem startMux_offered (s : State) : (startMux s).offered = s.offered := rfl
@[simp] theorem startMux_accepted (s : State) : (startMux s).accepted = s.accepted := rfl
@[simp] theorem startMux_sink (s : State) : (startMux s).sink = s.sink := rfl
@[simp] theorem startMux_inputs (s : State) : (startMux s).inputs = s.inputs := rfl
@[simp] theorem startMux_reads (s : State) : (startMux s).reads = s.reads := rfl
@[simp] theorem startMux_draws (s : State) : (startMux s).draws = s.draws := rfl

/-! ### muxComplete -/

@[simp] theorem muxComplete_busy (s : State) : (muxComplete s).busy = false := rfl
@[simp] theorem muxComplete_pvbValid (s : State) : (muxComplete s).pvbValid = false := rfl
@[simp] theorem muxComplete_done (s : State) : (muxComplete s).done = true := rfl
@[simp] theorem muxComplete_ovr (s : State) : (muxComplete s).ovr = s.ovr := rfl
@[simp] theorem muxComplete_err (s : State) : (muxComplete s).err = s.err := rfl
@[simp] theorem muxComplete_engine (s : State) : (muxComplete s).engine = .idle := rfl
@[simp] theorem muxComplete_chain (s : State) : (muxComplete s).chain = s.chain := rfl
@[simp] theorem muxComplete_ifbLen (s : State) : (muxComplete s).ifbLen = s.ifbLen := rfl
@[simp] theorem muxComplete_afbLen (s : State) : (muxComplete s).afbLen = 0#11 := rfl
@[simp] theorem muxComplete_row (s : State) : (muxComplete s).row = s.row := rfl
@[simp] theorem muxComplete_trip (s : State) : (muxComplete s).trip = s.trip := rfl
@[simp] theorem muxComplete_group (s : State) : (muxComplete s).group = s.group := rfl
@[simp] theorem muxComplete_byte (s : State) : (muxComplete s).byte = s.byte := rfl
@[simp] theorem muxComplete_frames (s : State) : (muxComplete s).frames = s.frames + 1#32 := rfl
@[simp] theorem muxComplete_ifb (s : State) : (muxComplete s).ifb = s.ifb := rfl
@[simp] theorem muxComplete_pvb (s : State) : (muxComplete s).pvb = s.pvb := rfl
@[simp] theorem muxComplete_afb (s : State) : (muxComplete s).afb = s.afb := rfl
@[simp] theorem muxComplete_rom (s : State) : (muxComplete s).rom = s.rom := rfl
@[simp] theorem muxComplete_offered (s : State) : (muxComplete s).offered = s.offered := rfl
@[simp] theorem muxComplete_accepted (s : State) : (muxComplete s).accepted = s.accepted := rfl
@[simp] theorem muxComplete_sink (s : State) : (muxComplete s).sink = s.sink := rfl
@[simp] theorem muxComplete_inputs (s : State) : (muxComplete s).inputs = s.inputs := rfl
@[simp] theorem muxComplete_reads (s : State) : (muxComplete s).reads = s.reads := rfl
@[simp] theorem muxComplete_draws (s : State) : (muxComplete s).draws = s.draws := rfl

/-! ### returnRead -/

@[simp] theorem returnRead_busy (v : HostValue) (s : State) : (returnRead v s).busy = s.busy := rfl
@[simp] theorem returnRead_pvbValid (v : HostValue) (s : State) : (returnRead v s).pvbValid = s.pvbValid := rfl
@[simp] theorem returnRead_done (v : HostValue) (s : State) : (returnRead v s).done = s.done := rfl
@[simp] theorem returnRead_ovr (v : HostValue) (s : State) : (returnRead v s).ovr = s.ovr := rfl
@[simp] theorem returnRead_err (v : HostValue) (s : State) : (returnRead v s).err = s.err := rfl
@[simp] theorem returnRead_engine (v : HostValue) (s : State) : (returnRead v s).engine = s.engine := rfl
@[simp] theorem returnRead_chain (v : HostValue) (s : State) : (returnRead v s).chain = s.chain := rfl
@[simp] theorem returnRead_ifbLen (v : HostValue) (s : State) : (returnRead v s).ifbLen = s.ifbLen := rfl
@[simp] theorem returnRead_afbLen (v : HostValue) (s : State) : (returnRead v s).afbLen = s.afbLen := rfl
@[simp] theorem returnRead_row (v : HostValue) (s : State) : (returnRead v s).row = s.row := rfl
@[simp] theorem returnRead_trip (v : HostValue) (s : State) : (returnRead v s).trip = s.trip := rfl
@[simp] theorem returnRead_group (v : HostValue) (s : State) : (returnRead v s).group = s.group := rfl
@[simp] theorem returnRead_byte (v : HostValue) (s : State) : (returnRead v s).byte = s.byte := rfl
@[simp] theorem returnRead_frames (v : HostValue) (s : State) : (returnRead v s).frames = s.frames := rfl
@[simp] theorem returnRead_ifb (v : HostValue) (s : State) : (returnRead v s).ifb = s.ifb := rfl
@[simp] theorem returnRead_pvb (v : HostValue) (s : State) : (returnRead v s).pvb = s.pvb := rfl
@[simp] theorem returnRead_afb (v : HostValue) (s : State) : (returnRead v s).afb = s.afb := rfl
@[simp] theorem returnRead_rom (v : HostValue) (s : State) : (returnRead v s).rom = s.rom := rfl
@[simp] theorem returnRead_offered (v : HostValue) (s : State) : (returnRead v s).offered = s.offered := rfl
@[simp] theorem returnRead_accepted (v : HostValue) (s : State) : (returnRead v s).accepted = s.accepted := rfl
@[simp] theorem returnRead_sink (v : HostValue) (s : State) : (returnRead v s).sink = s.sink := rfl
@[simp] theorem returnRead_inputs (v : HostValue) (s : State) : (returnRead v s).inputs = s.inputs := rfl
@[simp] theorem returnRead_reads (v : HostValue) (s : State) : (returnRead v s).reads = s.reads ++ [v] := rfl
@[simp] theorem returnRead_draws (v : HostValue) (s : State) : (returnRead v s).draws = s.draws := rfl

/-! ### returnDraw -/

@[simp] theorem returnDraw_busy (s : State) : (returnDraw s).busy = s.busy := rfl
@[simp] theorem returnDraw_pvbValid (s : State) : (returnDraw s).pvbValid = s.pvbValid := rfl
@[simp] theorem returnDraw_done (s : State) : (returnDraw s).done = s.done := rfl
@[simp] theorem returnDraw_ovr (s : State) : (returnDraw s).ovr = s.ovr := rfl
@[simp] theorem returnDraw_err (s : State) : (returnDraw s).err = s.err := rfl
@[simp] theorem returnDraw_engine (s : State) : (returnDraw s).engine = s.engine := rfl
@[simp] theorem returnDraw_chain (s : State) : (returnDraw s).chain = s.chain := rfl
@[simp] theorem returnDraw_ifbLen (s : State) : (returnDraw s).ifbLen = s.ifbLen := rfl
@[simp] theorem returnDraw_afbLen (s : State) : (returnDraw s).afbLen = s.afbLen := rfl
@[simp] theorem returnDraw_row (s : State) : (returnDraw s).row = s.row := rfl
@[simp] theorem returnDraw_trip (s : State) : (returnDraw s).trip = s.trip := rfl
@[simp] theorem returnDraw_group (s : State) : (returnDraw s).group = s.group := rfl
@[simp] theorem returnDraw_byte (s : State) : (returnDraw s).byte = s.byte := rfl
@[simp] theorem returnDraw_frames (s : State) : (returnDraw s).frames = s.frames := rfl
@[simp] theorem returnDraw_ifb (s : State) : (returnDraw s).ifb = s.ifb := rfl
@[simp] theorem returnDraw_pvb (s : State) : (returnDraw s).pvb = s.pvb := rfl
@[simp] theorem returnDraw_afb (s : State) : (returnDraw s).afb = s.afb := rfl
@[simp] theorem returnDraw_rom (s : State) : (returnDraw s).rom = s.rom := rfl
@[simp] theorem returnDraw_offered (s : State) : (returnDraw s).offered = s.offered := rfl
@[simp] theorem returnDraw_accepted (s : State) : (returnDraw s).accepted = s.accepted := rfl
@[simp] theorem returnDraw_sink (s : State) : (returnDraw s).sink = s.sink := rfl
@[simp] theorem returnDraw_inputs (s : State) : (returnDraw s).inputs = s.inputs := rfl
@[simp] theorem returnDraw_reads (s : State) : (returnDraw s).reads = s.reads ++ [.byte (Config.pvbDraw s.draws)] := rfl
@[simp] theorem returnDraw_draws (s : State) : (returnDraw s).draws = s.draws + 1 := rfl

/-! ### packComplete: what it never changes -/

@[simp] theorem packComplete_ovr (s : State) : (packComplete s).ovr = s.ovr := by unfold packComplete; dsimp only; split <;> rfl
@[simp] theorem packComplete_err (s : State) : (packComplete s).err = s.err := by unfold packComplete; dsimp only; split <;> rfl
@[simp] theorem packComplete_afbLen (s : State) : (packComplete s).afbLen = s.afbLen := by unfold packComplete; dsimp only; split <;> rfl
@[simp] theorem packComplete_row (s : State) : (packComplete s).row = s.row := by unfold packComplete; dsimp only; split <;> rfl
@[simp] theorem packComplete_trip (s : State) : (packComplete s).trip = s.trip := by unfold packComplete; dsimp only; split <;> rfl
@[simp] theorem packComplete_frames (s : State) : (packComplete s).frames = s.frames := by unfold packComplete; dsimp only; split <;> rfl
@[simp] theorem packComplete_ifb (s : State) : (packComplete s).ifb = s.ifb := by unfold packComplete; dsimp only; split <;> rfl
@[simp] theorem packComplete_pvb (s : State) : (packComplete s).pvb = s.pvb := by unfold packComplete; dsimp only; split <;> rfl
@[simp] theorem packComplete_afb (s : State) : (packComplete s).afb = s.afb := by unfold packComplete; dsimp only; split <;> rfl
@[simp] theorem packComplete_rom (s : State) : (packComplete s).rom = s.rom := by unfold packComplete; dsimp only; split <;> rfl
@[simp] theorem packComplete_offered (s : State) : (packComplete s).offered = s.offered := by unfold packComplete; dsimp only; split <;> rfl
@[simp] theorem packComplete_accepted (s : State) : (packComplete s).accepted = s.accepted := by unfold packComplete; dsimp only; split <;> rfl
@[simp] theorem packComplete_sink (s : State) : (packComplete s).sink = s.sink := by unfold packComplete; dsimp only; split <;> rfl
@[simp] theorem packComplete_inputs (s : State) : (packComplete s).inputs = s.inputs := by unfold packComplete; dsimp only; split <;> rfl
@[simp] theorem packComplete_reads (s : State) : (packComplete s).reads = s.reads := by unfold packComplete; dsimp only; split <;> rfl
@[simp] theorem packComplete_draws (s : State) : (packComplete s).draws = s.draws := by unfold packComplete; dsimp only; split <;> rfl

/-! ### packAdvance: what it never changes -/

@[simp] theorem packAdvance_ovr (s : State) : (packAdvance s).ovr = s.ovr := by
  unfold packAdvance; dsimp only; split <;> split <;> simp
@[simp] theorem packAdvance_err (s : State) : (packAdvance s).err = s.err := by
  unfold packAdvance; dsimp only; split <;> split <;> simp
@[simp] theorem packAdvance_afbLen (s : State) : (packAdvance s).afbLen = s.afbLen := by
  unfold packAdvance; dsimp only; split <;> split <;> simp
@[simp] theorem packAdvance_frames (s : State) : (packAdvance s).frames = s.frames := by
  unfold packAdvance; dsimp only; split <;> split <;> simp
@[simp] theorem packAdvance_ifb (s : State) : (packAdvance s).ifb = s.ifb := by
  unfold packAdvance; dsimp only; split <;> split <;> simp
@[simp] theorem packAdvance_pvb (s : State) : (packAdvance s).pvb = s.pvb := by
  unfold packAdvance; dsimp only; split <;> split <;> simp
@[simp] theorem packAdvance_afb (s : State) : (packAdvance s).afb = s.afb := by
  unfold packAdvance; dsimp only; split <;> split <;> simp
@[simp] theorem packAdvance_rom (s : State) : (packAdvance s).rom = s.rom := by
  unfold packAdvance; dsimp only; split <;> split <;> simp
@[simp] theorem packAdvance_offered (s : State) : (packAdvance s).offered = s.offered := by
  unfold packAdvance; dsimp only; split <;> split <;> simp
@[simp] theorem packAdvance_accepted (s : State) : (packAdvance s).accepted = s.accepted := by
  unfold packAdvance; dsimp only; split <;> split <;> simp
@[simp] theorem packAdvance_sink (s : State) : (packAdvance s).sink = s.sink := by
  unfold packAdvance; dsimp only; split <;> split <;> simp
@[simp] theorem packAdvance_inputs (s : State) : (packAdvance s).inputs = s.inputs := by
  unfold packAdvance; dsimp only; split <;> split <;> simp
@[simp] theorem packAdvance_reads (s : State) : (packAdvance s).reads = s.reads := by
  unfold packAdvance; dsimp only; split <;> split <;> simp
@[simp] theorem packAdvance_draws (s : State) : (packAdvance s).draws = s.draws := by
  unfold packAdvance; dsimp only; split <;> split <;> simp

/-! ### muxAdvance: what it never changes -/

@[simp] theorem muxAdvance_ovr (s : State) : (muxAdvance s).ovr = s.ovr := by
  unfold muxAdvance; dsimp only; split <;> split <;> rfl
@[simp] theorem muxAdvance_err (s : State) : (muxAdvance s).err = s.err := by
  unfold muxAdvance; dsimp only; split <;> split <;> rfl
@[simp] theorem muxAdvance_chain (s : State) : (muxAdvance s).chain = s.chain := by
  unfold muxAdvance; dsimp only; split <;> split <;> rfl
@[simp] theorem muxAdvance_ifbLen (s : State) : (muxAdvance s).ifbLen = s.ifbLen := by
  unfold muxAdvance; dsimp only; split <;> split <;> rfl
@[simp] theorem muxAdvance_row (s : State) : (muxAdvance s).row = s.row := by
  unfold muxAdvance; dsimp only; split <;> split <;> rfl
@[simp] theorem muxAdvance_trip (s : State) : (muxAdvance s).trip = s.trip := by
  unfold muxAdvance; dsimp only; split <;> split <;> rfl
@[simp] theorem muxAdvance_ifb (s : State) : (muxAdvance s).ifb = s.ifb := by
  unfold muxAdvance; dsimp only; split <;> split <;> rfl
@[simp] theorem muxAdvance_pvb (s : State) : (muxAdvance s).pvb = s.pvb := by
  unfold muxAdvance; dsimp only; split <;> split <;> rfl
@[simp] theorem muxAdvance_afb (s : State) : (muxAdvance s).afb = s.afb := by
  unfold muxAdvance; dsimp only; split <;> split <;> rfl
@[simp] theorem muxAdvance_rom (s : State) : (muxAdvance s).rom = s.rom := by
  unfold muxAdvance; dsimp only; split <;> split <;> rfl
@[simp] theorem muxAdvance_offered (s : State) : (muxAdvance s).offered = s.offered := by
  unfold muxAdvance; dsimp only; split <;> split <;> rfl
@[simp] theorem muxAdvance_accepted (s : State) : (muxAdvance s).accepted = s.accepted := by
  unfold muxAdvance; dsimp only; split <;> split <;> rfl
@[simp] theorem muxAdvance_sink (s : State) : (muxAdvance s).sink = s.sink := by
  unfold muxAdvance; dsimp only; split <;> split <;> rfl
@[simp] theorem muxAdvance_inputs (s : State) : (muxAdvance s).inputs = s.inputs := by
  unfold muxAdvance; dsimp only; split <;> split <;> rfl
@[simp] theorem muxAdvance_reads (s : State) : (muxAdvance s).reads = s.reads := by
  unfold muxAdvance; dsimp only; split <;> split <;> rfl
@[simp] theorem muxAdvance_draws (s : State) : (muxAdvance s).draws = s.draws := by
  unfold muxAdvance; dsimp only; split <;> split <;> rfl

end Sys2Proof.Machine
end

