-- ==== Sys2Proof/Laws/Ops.lean ====
section
/-! SUPPORT. For each shared operation, once, everything it can do. -/

namespace Sys2Proof.Machine

/-! ## Advance and completion -/

theorem packComplete_of_chain {s : State} (h : s.chain = true) :
    packComplete s = startMux { s with pvbValid := true, ifbLen := 0#18, chain := false } := by
  simp [packComplete, h]

theorem packComplete_of_no_chain {s : State} (h : s.chain = false) :
    packComplete s =
      { s with pvbValid := true, ifbLen := 0#18, engine := .idle, busy := false, done := true } := by
  simp [packComplete, h]

/-- The packer's advance: within a row, to the next row, or completion (40_pixel_packer.md R136). -/
theorem packAdvance_cases {s : State} (hr : s.row.toNat < 160) :
    (s.trip.toNat < 35 ∧ packAdvance s = { s with trip := s.trip + 1#6 }) ∨
    (35 ≤ s.trip.toNat ∧ s.row.toNat < 159 ∧ packAdvance s = { s with trip := 0#6, row := s.row + 1#8 }) ∨
    (35 ≤ s.trip.toNat ∧ s.row.toNat = 159 ∧
      packAdvance s = packComplete { s with trip := 0#6, row := s.row + 1#8 }) := by
  unfold packAdvance
  by_cases ht : s.trip.toNat < 35
  · left
    refine ⟨ht, ?_⟩
    simp only [ht, if_true]
    rw [if_neg]
    simp only [Config.rowsOut]; omega
  · right
    have hrow : (s.row + 1#8).toNat = s.row.toNat + 1 := by
      rw [BitVec.toNat_add]; simp; omega
    by_cases h159 : s.row.toNat = 159
    · right; refine ⟨by omega, h159, ?_⟩
      simp [ht, hrow, h159]
    · left; refine ⟨by omega, by omega, ?_⟩
      simp only [ht, if_false]
      rw [if_neg]
      simp only [Config.rowsOut, hrow]; omega

/-- The multiplexer's advance: within a group, to the next group, or completion (41_frame_multiplexer.md R168). -/
theorem muxAdvance_cases {s : State} (hg : s.group.toNat < 1960) :
    (s.byte.toNat < 9 ∧ muxAdvance s = { s with byte := s.byte + 1#4 }) ∨
    (9 ≤ s.byte.toNat ∧ s.group.toNat < 1959 ∧ muxAdvance s = { s with byte := 0#4, group := s.group + 1#11 }) ∨
    (9 ≤ s.byte.toNat ∧ s.group.toNat = 1959 ∧
      muxAdvance s = muxComplete { s with byte := 0#4, group := s.group + 1#11 }) := by
  unfold muxAdvance
  by_cases hb : s.byte.toNat < 9
  · left
    refine ⟨hb, ?_⟩
    simp only [hb, if_true]
    rw [if_neg]
    simp only [Config.nGroups]; omega
  · right
    have hgrp : (s.group + 1#11).toNat = s.group.toNat + 1 := by
      rw [BitVec.toNat_add]; simp; omega
    by_cases h : s.group.toNat = 1959
    · right; refine ⟨by omega, h, ?_⟩
      simp [hb, hgrp, h]
    · left; refine ⟨by omega, by omega, ?_⟩
      simp only [hb, if_false]
      rw [if_neg]
      simp only [Config.nGroups, hgrp]; omega

/-! ## Emission -/

/-- If the emission step answers a next state, the sink accepted, failed, or has not answered (41_frame_multiplexer.md
R167). -/
theorem emitStep_cases {v : Byte} {s t : State} (h : emitStep v s = .next t) :
    ((s.sink = [] ∧ t = { s with offered := some v }) ∨
      (∃ rest, s.sink = .noAnswer :: rest ∧ t = { s with offered := some v, sink := rest })) ∨
    (∃ rest, s.sink = .accept :: rest ∧
      t = muxAdvance { s with offered := none, accepted := s.accepted ++ [v], sink := rest }) ∨
    (∃ rest, s.sink = .fail :: rest ∧ t = raiseError .sink { s with offered := none, sink := rest }) := by
  unfold emitStep at h
  split at h
  · next hs => cases h; exact .inl (.inl ⟨hs, rfl⟩)
  · next rest hs => cases h; exact .inl (.inr ⟨rest, hs, rfl⟩)
  · next rest hs => cases h; exact .inr (.inl ⟨rest, hs, rfl⟩)
  · next rest hs => cases h; exact .inr (.inr ⟨rest, hs, rfl⟩)
  · cases h

theorem emitStep_no_fault (v : Byte) (s : State) (f : Fault) : emitStep v s ≠ .fault f := by
  unfold emitStep; split <;> exact nofun

theorem emitRom_cases {v : Option Byte} {s t : State} (h : emitRom v s = .next t) :
    ∃ b, v = some b ∧ emitStep b s = .next t := by
  cases v with
  | none => cases h
  | some b => exact ⟨b, rfl, h⟩

theorem emitBuffer_cases {v : Option Byte} {s t : State} (h : emitBuffer v s = .next t) :
    ∃ b, v = some b ∧ emitStep b s = .next t := by
  cases v with
  | none => cases h
  | some b => exact ⟨b, rfl, h⟩

/-! ## The micro-op the position names -/

theorem lineEven_iff (o : Nat) : lineEven o = true ↔ o % 2 = 0 := decide_eq_true_iff

/-- The eight positions and their micro-op codes (10_state.md R46). -/
theorem seqUop_cases (s : State) :
    (s.engine = .idle ∧ seqUop s = 0x0#4) ∨
    (s.engine = .packer ∧ s.row.toNat % 2 = 0 ∧ seqUop s = 0x1#4) ∨
    (s.engine = .packer ∧ s.row.toNat % 2 = 1 ∧ seqUop s = 0x2#4) ∨
    (s.engine = .multiplexer ∧ s.byte.toNat = 9 ∧ seqUop s = 0xC#4) ∨
    (s.engine = .multiplexer ∧ s.byte.toNat ≠ 9 ∧ s.group.toNat < 24 ∧ seqUop s = 0x8#4) ∨
    (s.engine = .multiplexer ∧ s.byte.toNat ≠ 9 ∧ 24 ≤ s.group.toNat ∧ s.group.toNat < 36 ∧ seqUop s = 0x9#4) ∨
    (s.engine = .multiplexer ∧ s.byte.toNat ≠ 9 ∧ 36 ≤ s.group.toNat ∧ s.group.toNat < 40 ∧ seqUop s = 0xA#4) ∨
    (s.engine = .multiplexer ∧ s.byte.toNat ≠ 9 ∧ 40 ≤ s.group.toNat ∧ seqUop s = 0xB#4) := by
  cases he : s.engine
  · simp [seqUop, he]
  · rcases Nat.mod_two_eq_zero_or_one s.row.toNat with h | h <;> simp [seqUop, he, lineEven_iff, h]
  · by_cases h9 : s.byte.toNat = 9
    · simp [seqUop, he, h9]
    · rcases Nat.lt_or_ge s.group.toNat 24 with h1 | h1
      · simp [seqUop, he, h9, h1]
      · rcases Nat.lt_or_ge s.group.toNat 36 with h2 | h2
        · simp [seqUop, he, h9, h1, h2, Nat.not_lt.2 h1]
        · rcases Nat.lt_or_ge s.group.toNat 40 with h3 | h3
          · simp [seqUop, he, h9, h2, h3, Nat.not_lt.2 h1, Nat.not_lt.2 h2]
          · simp [seqUop, he, h9, h3, Nat.not_lt.2 h1, Nat.not_lt.2 h2, Nat.not_lt.2 h3]

/-- The code the position gives is the code of an instruction (30_encoding.md R103): the sequencer's fetch never fails. -/
theorem decodeUop_seqUop (s : State) : ∃ i, decodeUop (seqUop s) = .ok i := by
  rcases seqUop_cases s with h | h | h | h | h | h | h | h
  · exact ⟨.idle, by simp [h, decodeUop]⟩
  · exact ⟨.packEven, by simp [h, decodeUop]⟩
  · exact ⟨.packOdd, by simp [h, decodeUop]⟩
  · exact ⟨.muxAudio, by simp [h, decodeUop]⟩
  · exact ⟨.muxSync1, by simp [h, decodeUop]⟩
  · exact ⟨.muxSync2, by simp [h, decodeUop]⟩
  · exact ⟨.muxSync3, by simp [h, decodeUop]⟩
  · exact ⟨.muxVideo, by simp [h, decodeUop]⟩

theorem rom_entry_lt {n : Nat} {v : Vector Byte n} {j : Nat} {b : Byte} (h : v[j]? = some b) : j < n := by
  by_contra hj
  rw [Vector.getElem?_eq_none (by omega)] at h; cases h

theorem sync2At_lt {rom : SyncRom} {r j : Nat} {b : Byte} (h : sync2At rom r j = some b) : j < 9 := by
  unfold sync2At at h
  split at h
  · exact rom_entry_lt h
  · cases h

/-- A MUX micro-op that answers a next state emitted the byte of the position (41_frame_multiplexer.md R161). -/
theorem mux_emits {i : Instr} {s t : State}
    (hi : i = .muxSync1 ∨ i = .muxSync2 ∨ i = .muxSync3 ∨ i = .muxVideo ∨ i = .muxAudio) (h : exec i s = .next t) :
    s.engine = .multiplexer ∧
      ∃ v, muxByte s s.group.toNat s.byte.toNat = some v ∧ emitStep v s = .next t := by
  rcases hi with rfl | rfl | rfl | rfl | rfl
  · simp only [exec, execMuxSync1] at h
    split at h <;> [skip; cases h]
    next hu =>
    obtain ⟨b, hb, hs⟩ := emitRom_cases h
    have hj := rom_entry_lt hb
    rcases seqUop_cases s with c | c | c | c | c | c | c | c <;> simp only [c] at hu <;> try exact absurd hu (by decide)
    refine ⟨c.1, b, ?_, hs⟩
    simp [muxByte, c, show ¬ (1960 ≤ s.group.toNat ∨ 9 < s.byte.toNat) by omega, hb]
  · simp only [exec, execMuxSync2] at h
    split at h <;> [skip; cases h]
    next hu =>
    obtain ⟨b, hb, hs⟩ := emitRom_cases h
    have hj := sync2At_lt hb
    rcases seqUop_cases s with c | c | c | c | c | c | c | c <;> simp only [c] at hu <;> try exact absurd hu (by decide)
    refine ⟨c.1, b, ?_, hs⟩
    simpa [muxByte, c, show ¬ (1960 ≤ s.group.toNat ∨ 9 < s.byte.toNat) by omega, show ¬ s.group.toNat < 24 by omega] using hb
  · simp only [exec, execMuxSync3] at h
    split at h <;> [skip; cases h]
    next hu =>
    obtain ⟨b, hb, hs⟩ := emitRom_cases h
    have hj := rom_entry_lt hb
    rcases seqUop_cases s with c | c | c | c | c | c | c | c <;> simp only [c] at hu <;> try exact absurd hu (by decide)
    refine ⟨c.1, b, ?_, hs⟩
    simp [muxByte, c, show ¬ (1960 ≤ s.group.toNat ∨ 9 < s.byte.toNat) by omega, show ¬ s.group.toNat < 24 by omega,
      show ¬ s.group.toNat < 36 by omega, hb]
  · simp only [exec, execMuxVideo] at h
    split at h <;> [skip; cases h]
    next hu =>
    split at h <;> [skip; cases h]
    next hr =>
    obtain ⟨b, hb, hs⟩ := emitBuffer_cases h
    simp only [Config.nGroups, Config.groupData] at hr
    rcases seqUop_cases s with c | c | c | c | c | c | c | c <;> simp only [c] at hu <;> try exact absurd hu (by decide)
    refine ⟨c.1, b, ?_, hs⟩
    simp [muxByte, c, show ¬ (1960 ≤ s.group.toNat ∨ 9 < s.byte.toNat) by omega, show ¬ s.group.toNat < 24 by omega,
      show ¬ s.group.toNat < 36 by omega, show ¬ s.group.toNat < 40 by omega, hb]
  · simp only [exec, execMuxAudio] at h
    split at h <;> [skip; cases h]
    next hu =>
    split at h <;> [skip; cases h]
    next hr =>
    obtain ⟨b, hb, hs⟩ := emitBuffer_cases h
    simp only [Config.nGroups] at hr
    rcases seqUop_cases s with c | c | c | c | c | c | c | c <;> simp only [c] at hu <;> try exact absurd hu (by decide)
    exact ⟨c.1, b, by simp [muxByte, c, show ¬ 1960 ≤ s.group.toNat by omega, hb], hs⟩

/-! ## Packing -/

/-- If a packed triplet answers a next state, the position was inside the frame, the six source bytes were written, and
the state advanced after the three stores (40_pixel_packer.md R134, R135). -/
theorem packTriplet_cases {order : Pixels → Triplet} {s t : State} (h : packTriplet order s = .next t) :
    s.row.toNat < 160 ∧ s.trip.toNat < 36 ∧
      ∃ p, readPixels s.ifb (packSrc s.row.toNat s.trip.toNat) = some p ∧
        t = packAdvance { s with pvb := writeTriplet s.pvb (pvbOff s.row.toNat s.trip.toNat 0) (order p) } := by
  unfold packTriplet at h
  split at h
  · next hr =>
    split at h
    · next p hp => cases h; exact ⟨hr.1, hr.2, p, hp, rfl⟩
    · cases h
  · cases h

/-- A PACK micro-op that answers a next state packed a triplet in the order of its line mode (40_pixel_packer.md R133). -/
theorem pack_packs {i : Instr} {s t : State} (hi : i = .packEven ∨ i = .packOdd) (h : exec i s = .next t) :
    s.engine = .packer ∧
      packTriplet (if s.row.toNat % 2 = 0 then evenTriplet else oddTriplet) s = .next t := by
  rcases hi with rfl | rfl
  · simp only [exec, execPackEven] at h
    split at h <;> [skip; cases h]
    next hu =>
    rcases seqUop_cases s with c | c | c | c | c | c | c | c <;> simp only [c] at hu <;> try exact absurd hu (by decide)
    exact ⟨c.1, by simpa only [c, if_true] using h⟩
  · simp only [exec, execPackOdd] at h
    split at h <;> [skip; cases h]
    next hu =>
    rcases seqUop_cases s with c | c | c | c | c | c | c | c <;> simp only [c] at hu <;> try exact absurd hu (by decide)
    exact ⟨c.1, by simpa only [c, if_neg (show ¬ (1 : Nat) = 0 by decide)] using h⟩

/-- The three bytes a triplet stores, and nothing else. -/
theorem read_writeTriplet (m : Memory) (d a : Nat) (x : Triplet) :
    (writeTriplet m d x).read a =
      if a = d + 2 then some x.b2 else if a = d + 1 then some x.b1 else if a = d then some x.b0 else m.read a := by
  simp [writeTriplet, Memory.read_write]

theorem writeTriplet_wf {size : Nat} {m : Memory} {d : Nat} (x : Triplet) (h : m.wf size) (hd : d + 2 < size) :
    (writeTriplet m d x).wf size :=
  Memory.write_wf _ (Memory.write_wf _ (Memory.write_wf _ h (by omega)) (by omega)) hd

/-- The six source bytes, all written or none answered (40_pixel_packer.md R132). -/
theorem readPixels_eq_some {m : Memory} {a : Nat} {p : Pixels} :
    readPixels m a = some p ↔
      m.read a = some p.r0 ∧ m.read (a + 1) = some p.g0 ∧ m.read (a + 2) = some p.b0 ∧
        m.read (a + 3) = some p.r1 ∧ m.read (a + 4) = some p.g1 ∧ m.read (a + 5) = some p.b1 := by
  unfold readPixels
  constructor
  · intro h
    split at h
    · cases h; simp_all
    · cases h
  · rintro ⟨h0, h1, h2, h3, h4, h5⟩
    simp [h0, h1, h2, h3, h4, h5]

/-! ## Commands -/

/-- A checked command starts its engine, records one error, or does nothing (60_exceptions.md R225). -/
theorem checkedStart_cases (op : CheckedOp) (start : State → State) (s : State) :
    (commandChecks op s = .pass ∧ checkedStart op start s = start s) ∨
    (∃ code, commandChecks op s = .raise code ∧ checkedStart op start s = raiseError code s) ∨
    (commandChecks op s = .sticky ∧ checkedStart op start s = s) := by
  unfold checkedStart
  cases h : commandChecks op s <;> simp

theorem commandChecks_sticky {op : CheckedOp} {s : State} :
    commandChecks op s = .sticky ↔ s.err ≠ .none := by
  unfold commandChecks
  split
  · next h => simp [h]
  · next h =>
    have : s.err = .none := by simpa using h
    simp only [this]
    split
    · simp
    · split
      · simp
      · split <;> simp

theorem commandChecks_pass {op : CheckedOp} {s : State} (h : commandChecks op s = .pass) :
    s.err = .none ∧ (op = .mux → s.pvbValid = true) := by
  unfold commandChecks at h
  split at h
  · cases h
  · next h0 =>
    refine ⟨by simpa using h0, ?_⟩
    split at h
    · cases h
    · split at h
      · cases h
      · next h2 => intro hop; simpa [hop] using h2

theorem issueCommand_of_busy (body : State → State) {s : State} (h : s.busy = true) :
    issueCommand body s = dropWrite s := by simp [issueCommand, h]

theorem issueCommand_of_idle (body : State → State) {s : State} (h : s.busy = false) :
    issueCommand body s = body (clearDone s) := by simp [issueCommand, h]

/-- A REG_WR is dropped, or runs a command word, or stores a length, or has no effect (42_commands.md R192). -/
theorem registerWrite_cases (r : Nat) (w : Word) (s : State) :
    registerWrite r w s = dropWrite s ∨ (r = 0 ∧ registerWrite r w s = commandWrite w s) ∨
    (s.busy = false ∧ r = 2 ∧ registerWrite r w s = { s with ifbLen := w.extractLsb' 0 18 }) ∨
    (s.busy = false ∧ r = 3 ∧ registerWrite r w s = { s with afbLen := w.extractLsb' 0 11 }) ∨
    registerWrite r w s = s := by
  unfold registerWrite
  split
  · exact .inl rfl
  · next h =>
    unfold storeRegister
    split
    · exact .inr (.inl ⟨rfl, rfl⟩)
    · exact .inr (.inr (.inl ⟨by simpa using h, rfl, rfl⟩))
    · exact .inr (.inr (.inr (.inl ⟨by simpa using h, rfl, rfl⟩)))
    · exact .inr (.inr (.inr (.inr rfl)))

theorem commandWrite_cases (w : Word) (s : State) :
    (w = 0#32 ∧ commandWrite w s = s) ∨ (w = 0xF#32 ∧ commandWrite w s = resetBlock s) ∨
    (s.busy = true ∧ commandWrite w s = dropWrite s) ∨
    (s.busy = false ∧ commandWrite w s = commandBody w (clearDone s)) := by
  unfold commandWrite
  split
  · exact .inl ⟨by assumption, rfl⟩
  · split
    · exact .inr (.inl ⟨by assumption, rfl⟩)
    · cases hb : s.busy
      · exact .inr (.inr (.inr ⟨rfl, issueCommand_of_idle _ hb⟩))
      · exact .inr (.inr (.inl ⟨rfl, issueCommand_of_busy _ hb⟩))

theorem bufferRead_cases {v : Option Byte} {s t : State} (h : bufferRead v s = .next t) :
    ∃ b, v = some b ∧ t = returnRead (.byte b) s := by
  cases v with
  | none => cases h
  | some b => cases h; exact ⟨b, rfl, rfl⟩

end Sys2Proof.Machine
end

