-- ==== Sys2Proof/Laws/Step.lean ====
section
/-! SUPPORT. What the next step is, by the head of `inputs`. -/

namespace Sys2Proof.Machine

/-- The micro-op the position names, and the sequencer's fetch of it. -/
theorem fetchEncoded_seqUop (s t : State) : ∃ i, decodeUop (seqUop s) = .ok i ∧ fetchEncoded (.uop (seqUop s)) t = .instr i t := by
  obtain ⟨i, hi⟩ := decodeUop_seqUop s
  exact ⟨i, hi, by simp [fetchEncoded, decode, hi]⟩

end Sys2Proof.Machine
end

