-- ==== Sys2Proof/Laws/Exec.lean ====
section
/-! SUPPORT. Said once: everything an instruction, and a step, can do when it answers a next state. -/

namespace Sys2Proof.Machine

/-- The starts of the checked commands (42_commands.md R197, R198, R199). -/
def startOf : CheckedOp → State → State
  | .pack => startPack
  | .mux => startMux
  | .encode => startEncode

/-- What `exec i s` can leave, by cause. -/
inductive Effect (s : State) : Instr → State → Prop where
  /-- No effect: NOP, IDLE, an ignored write. -/
  | same {i : Instr} : Effect s i s
  /-- A write dropped while busy. -/
  | dropped {i : Instr} : s.busy = true → Effect s i (dropWrite s)
  /-- RESET. -/
  | reset {i : Instr} : i = .reset ∨ i = .regWr 0#6 0x0000000F#32 → Effect s i (resetBlock s)
  /-- PACK, MUX or ENCODE while idle. -/
  | command {i : Instr} (op : CheckedOp) :
      s.busy = false → Effect s i (checkedStart op (startOf op) (clearDone s))
  /-- An illegal command word while idle. -/
  | illegal {i : Instr} : s.busy = false → Effect s i (raiseError .illegalCmd (clearDone s))
  /-- IFB_LEN written while idle. -/
  | ifbLen {i : Instr} (n : BitVec 18) : s.busy = false → Effect s i { s with ifbLen := n }
  /-- AFB_LEN written while idle. -/
  | afbLen {i : Instr} (n : BitVec 11) : s.busy = false → Effect s i { s with afbLen := n }
  /-- An IFB byte written while idle. -/
  | ifbWrite {i : Instr} (k : Nat) (v : Byte) :
      s.busy = false → k < 207360 → Effect s i { s with ifb := s.ifb.write k v }
  /-- An AFB byte written while idle. -/
  | afbWrite {i : Instr} (k : Nat) (v : Byte) :
      s.busy = false → k < 1960 → Effect s i { s with afb := s.afb.write k v }
  /-- A host read. -/
  | read {i : Instr} (v : HostValue) : Effect s i (returnRead v s)
  /-- A host read of PVB while the packer runs. -/
  | draw {i : Instr} : s.engine = .packer → Effect s i (returnDraw s)
  /-- A PACK micro-op. -/
  | packed {i : Instr} {t : State} : i = .packEven ∨ i = .packOdd → s.engine = .packer →
      packTriplet (if s.row.toNat % 2 = 0 then evenTriplet else oddTriplet) s = .next t → Effect s i t
  /-- A MUX micro-op. -/
  | emitted {i : Instr} {t : State} (v : Byte) : s.engine = .multiplexer →
      muxByte s s.group.toNat s.byte.toNat = some v → emitStep v s = .next t → Effect s i t

theorem commandBody_effect (i : Instr) (w : Word) {s : State} (hb : s.busy = false) :
    Effect s i (commandBody w (clearDone s)) := by
  unfold commandBody
  split
  · exact .command .pack hb
  · split
    · exact .command .mux hb
    · split
      · exact .command .encode hb
      · exact .illegal hb

theorem issue_effect (i : Instr) (op : CheckedOp) (s : State) :
    Effect s i (issueCommand (checkedStart op (startOf op)) s) := by
  cases hb : s.busy
  · rw [issueCommand_of_idle _ hb]; exact .command op hb
  · rw [issueCommand_of_busy _ hb]; exact .dropped hb

theorem registerWrite_effect (r : BitVec 6) (w : Word) (s : State) :
    Effect s (.regWr r w) (registerWrite r.toNat w s) := by
  unfold registerWrite
  split
  · next h => exact .dropped h.1
  · next h =>
    unfold storeRegister
    split
    · next hr =>
      have hr0 : r = 0#6 := BitVec.eq_of_toNat_eq hr
      rcases commandWrite_cases w s with c | c | c | c
      · rw [c.2]; exact .same
      · rw [c.2]; exact .reset (.inr (by rw [hr0, c.1]))
      · rw [c.2]; exact .dropped c.1
      · rw [c.2]; exact commandBody_effect _ w c.1
    · next hr => exact .ifbLen _ (by simpa [hr] using h)
    · next hr => exact .afbLen _ (by simpa [hr] using h)
    · exact .same

theorem bufferWrite_effect {i : Instr} {store : State → State} {s : State}
    (h : s.busy = false → Effect s i (store s)) : Effect s i (bufferWrite store s) := by
  unfold bufferWrite
  split
  · next hb => exact .dropped hb
  · next hb => exact h (by simpa using hb)

/-- Everything `exec` can do when it answers a next state. -/
theorem exec_effect {i : Instr} {s t : State} (h : exec i s = .next t) : Effect s i t := by
  cases i with
  | nop => cases h; exact .same
  | pack => cases h; exact issue_effect _ .pack s
  | mux => cases h; exact issue_effect _ .mux s
  | encode => cases h; exact issue_effect _ .encode s
  | reset => cases h; exact .reset (.inl rfl)
  | idle =>
    simp only [exec, execIdle] at h
    split at h <;> cases h
    exact .same
  | packEven => exact .packed (.inl rfl) (pack_packs (.inl rfl) h).1 (pack_packs (.inl rfl) h).2
  | packOdd => exact .packed (.inr rfl) (pack_packs (.inr rfl) h).1 (pack_packs (.inr rfl) h).2
  | muxSync1 => obtain ⟨he, v, hv, hs⟩ := mux_emits (by simp) h; exact .emitted v he hv hs
  | muxSync2 => obtain ⟨he, v, hv, hs⟩ := mux_emits (by simp) h; exact .emitted v he hv hs
  | muxSync3 => obtain ⟨he, v, hv, hs⟩ := mux_emits (by simp) h; exact .emitted v he hv hs
  | muxVideo => obtain ⟨he, v, hv, hs⟩ := mux_emits (by simp) h; exact .emitted v he hv hs
  | muxAudio => obtain ⟨he, v, hv, hs⟩ := mux_emits (by simp) h; exact .emitted v he hv hs
  | regRd r => cases h; exact .read _
  | regWr r w => cases h; exact registerWrite_effect r w s
  | afbRd k =>
    simp only [exec, execAfbRd] at h
    split at h <;> [skip; cases h]
    obtain ⟨b, -, rfl⟩ := bufferRead_cases h
    exact .read _
  | afbWr k v =>
    simp only [exec, execAfbWr] at h
    split at h <;> cases h
    next hk => exact bufferWrite_effect fun hb => .afbWrite _ _ hb hk
  | pvbRd k =>
    simp only [exec, execPvbRd] at h
    split at h <;> [skip; cases h]
    split at h
    · next he => cases h; exact .draw he
    · obtain ⟨b, -, rfl⟩ := bufferRead_cases h
      exact .read _
  | pvbWr k v =>
    simp only [exec, execPvbWr] at h
    split at h <;> cases h
    exact bufferWrite_effect fun _ => .same
  | ifbRd k =>
    simp only [exec, execIfbRd] at h
    split at h <;> [skip; cases h]
    obtain ⟨b, -, rfl⟩ := bufferRead_cases h
    exact .read _
  | ifbWr k v =>
    simp only [exec, execIfbWr] at h
    split at h <;> cases h
    next hk => exact bufferWrite_effect fun hb => .ifbWrite _ _ hb hk

/-- Everything a step can do when it answers a next state: a reset from `rst_n`, or one effect on the state with the
input taken, of the instruction fetched. -/
theorem step_effect {s t : State} (h : step s = .next t) :
    (ResetsNext s ∧ ∃ rest, t = resetBlock { s with inputs := rest }) ∨
    ∃ i rest, fetch s = .instr i { s with inputs := rest } ∧ Effect { s with inputs := rest } i t := by
  have inputs_eq {i : Instr} {u : State} (hf : fetch s = .instr i u) : ∃ rest, u = { s with inputs := rest } := by
    unfold fetch at hf
    split at hf
    · simp only [fetchEncoded] at hf; split at hf <;> cases hf; exact ⟨s.inputs, rfl⟩
    · simp only [fetchEncoded] at hf; split at hf <;> cases hf; exact ⟨_, rfl⟩
    · simp only [fetchEncoded] at hf; split at hf <;> cases hf; exact ⟨_, rfl⟩
    · simp only [fetchCommand] at hf; split at hf <;> cases hf <;> exact ⟨_, rfl⟩
    · cases hf
  cases hf : fetch s with
  | instr i u =>
    obtain ⟨rest, rfl⟩ := inputs_eq hf
    simp only [step, hf] at h
    exact .inr ⟨i, rest, rfl, exec_effect h⟩
  | rst u =>
    simp only [step, hf] at h
    cases h
    have : ∃ rest, u = { s with inputs := rest } := by
      unfold fetch at hf
      split at hf
      · simp only [fetchEncoded] at hf; split at hf <;> cases hf
      · simp only [fetchEncoded] at hf; split at hf <;> cases hf
      · simp only [fetchEncoded] at hf; split at hf <;> cases hf
      · simp only [fetchCommand] at hf; split at hf <;> cases hf
      · cases hf; exact ⟨_, rfl⟩
    obtain ⟨rest, rfl⟩ := this
    exact .inl ⟨.inl ⟨_, hf⟩, rest, rfl⟩
  | refused why => simp only [step, hf] at h; cases h

end Sys2Proof.Machine
end

