-- ==== Sys2Proof/Laws/PerInstr.lean ====
section
/-! SUPPORT. For every instruction: its encoding carries the bits that its row of spec/opcode_table.json fixes. -/

namespace Sys2Proof.Laws.TableRow

/-- The number an encoding is, bit 0 least significant; of a bus transaction the descriptor. -/
def code : Encoded → Nat
  | .cmd w => w.toNat
  | .uop c => c.toNat
  | .bus d _ => d.toNat

/-- The fields `(hi, lo, value)` that the row of each instruction fixes (the "fixed" entries of
spec/opcode_table.json). -/
def fixedFields : Instr → List (Nat × Nat × Nat)
  | .nop => [(31, 0, 0)]
  | .pack => [(31, 0, 1)]
  | .mux => [(31, 0, 2)]
  | .encode => [(31, 0, 3)]
  | .reset => [(31, 0, 15)]
  | .idle => [(3, 0, 0)]
  | .packEven => [(3, 0, 1)]
  | .packOdd => [(3, 0, 2)]
  | .muxSync1 => [(3, 0, 8)]
  | .muxSync2 => [(3, 0, 9)]
  | .muxSync3 => [(3, 0, 10)]
  | .muxVideo => [(3, 0, 11)]
  | .muxAudio => [(3, 0, 12)]
  | .regRd _ => [(1, 0, 0), (22, 8, 8192)]
  | .regWr _ _ => [(1, 0, 0), (22, 8, 24576)]
  | .afbRd _ => [(22, 11, 32)]
  | .afbWr _ _ => [(22, 11, 2080)]
  | .pvbRd _ => [(22, 15, 4)]
  | .pvbWr _ _ => [(22, 15, 132)]
  | .ifbRd _ => [(22, 18, 1)]
  | .ifbWr _ _ => [(22, 18, 17)]

/-- Bits `hi` down to `lo` of the encoding have the value the table fixes. -/
def Statement (i : Instr) : Prop :=
  ∀ f ∈ fixedFields i, code (Sys2Proof.encode i) / 2 ^ f.2.1 % 2 ^ (f.1 + 1 - f.2.1) = f.2.2

theorem nop : Statement .nop := by unfold Statement; decide
theorem pack : Statement .pack := by unfold Statement; decide
theorem mux : Statement .mux := by unfold Statement; decide
theorem encode : Statement .encode := by unfold Statement; decide
theorem reset : Statement .reset := by unfold Statement; decide
theorem idle : Statement .idle := by unfold Statement; decide
theorem packEven : Statement .packEven := by unfold Statement; decide
theorem packOdd : Statement .packOdd := by unfold Statement; decide
theorem muxSync1 : Statement .muxSync1 := by unfold Statement; decide
theorem muxSync2 : Statement .muxSync2 := by unfold Statement; decide
theorem muxSync3 : Statement .muxSync3 := by unfold Statement; decide
theorem muxVideo : Statement .muxVideo := by unfold Statement; decide
theorem muxAudio : Statement .muxAudio := by unfold Statement; decide

/-- The fixed fields of a descriptor whose address is a window's base plus an offset inside the field. -/
theorem descriptor_fields (wr : Bool) (size : BitVec 2) {addr : Nat} (h : addr < 2 ^ 20) (hi lo : Nat) :
    (busDescriptor wr size addr).toNat / 2 ^ lo % 2 ^ (hi + 1 - lo) =
      (wr.toNat * 2 ^ 22 + size.toNat * 2 ^ 20 + addr) / 2 ^ lo % 2 ^ (hi + 1 - lo) := by
  rw [busDescriptor_toNat wr size h]

theorem regRd (r : BitVec 6) : Statement (.regRd r) := by
  have := r.isLt
  simp only [Statement, fixedFields, code, Sys2Proof.encode, List.forall_mem_cons, List.not_mem_nil, false_imp_iff,
    forall_const, and_true, descriptor_fields _ _ (show 4 * r.toNat < 2 ^ 20 by omega)]
  simp only [Bool.toNat_false, BitVec.toNat_ofNat]
  omega

theorem regWr (r : BitVec 6) (w : Word) : Statement (.regWr r w) := by
  have := r.isLt
  simp only [Statement, fixedFields, code, Sys2Proof.encode, List.forall_mem_cons, List.not_mem_nil, false_imp_iff,
    forall_const, and_true, descriptor_fields _ _ (show 4 * r.toNat < 2 ^ 20 by omega)]
  simp only [Bool.toNat_true, BitVec.toNat_ofNat]
  omega

theorem afbRd (k : BitVec 11) : Statement (.afbRd k) := by
  have := k.isLt
  simp only [Statement, fixedFields, code, Sys2Proof.encode, Config.afbBase, List.forall_mem_cons, List.not_mem_nil,
    false_imp_iff, forall_const, and_true, descriptor_fields _ _ (show 0x10000 + k.toNat < 2 ^ 20 by omega)]
  simp only [Bool.toNat_false, BitVec.toNat_ofNat]
  omega

theorem afbWr (k : BitVec 11) (v : Byte) : Statement (.afbWr k v) := by
  have := k.isLt
  simp only [Statement, fixedFields, code, Sys2Proof.encode, Config.afbBase, List.forall_mem_cons, List.not_mem_nil,
    false_imp_iff, forall_const, and_true, descriptor_fields _ _ (show 0x10000 + k.toNat < 2 ^ 20 by omega)]
  simp only [Bool.toNat_true, BitVec.toNat_ofNat]
  omega

theorem pvbRd (k : BitVec 15) : Statement (.pvbRd k) := by
  have := k.isLt
  simp only [Statement, fixedFields, code, Sys2Proof.encode, Config.pvbBase, List.forall_mem_cons, List.not_mem_nil,
    false_imp_iff, forall_const, and_true, descriptor_fields _ _ (show 0x20000 + k.toNat < 2 ^ 20 by omega)]
  simp only [Bool.toNat_false, BitVec.toNat_ofNat]
  omega

theorem pvbWr (k : BitVec 15) (v : Byte) : Statement (.pvbWr k v) := by
  have := k.isLt
  simp only [Statement, fixedFields, code, Sys2Proof.encode, Config.pvbBase, List.forall_mem_cons, List.not_mem_nil,
    false_imp_iff, forall_const, and_true, descriptor_fields _ _ (show 0x20000 + k.toNat < 2 ^ 20 by omega)]
  simp only [Bool.toNat_true, BitVec.toNat_ofNat]
  omega

theorem ifbRd (k : BitVec 18) : Statement (.ifbRd k) := by
  have := k.isLt
  simp only [Statement, fixedFields, code, Sys2Proof.encode, Config.ifbBase, List.forall_mem_cons, List.not_mem_nil,
    false_imp_iff, forall_const, and_true, descriptor_fields _ _ (show 0x40000 + k.toNat < 2 ^ 20 by omega)]
  simp only [Bool.toNat_false, BitVec.toNat_ofNat]
  omega

theorem ifbWr (k : BitVec 18) (v : Byte) : Statement (.ifbWr k v) := by
  have := k.isLt
  simp only [Statement, fixedFields, code, Sys2Proof.encode, Config.ifbBase, List.forall_mem_cons, List.not_mem_nil,
    false_imp_iff, forall_const, and_true, descriptor_fields _ _ (show 0x40000 + k.toNat < 2 ^ 20 by omega)]
  simp only [Bool.toNat_true, BitVec.toNat_ofNat]
  omega

end Sys2Proof.Laws.TableRow
end

