-- ==== Sys2Proof/Tests/Slice0.lean ====
section
/-! SUPPORT. Tests: expected values are written out from spec/ (95_test_vectors.md where a vector is named), and a named
witness for the hypotheses of every statement that has some. -/

namespace Sys2Proof.Tests

open Sys2Proof Sys2Proof.Machine

/-! ## Helpers -/

/-- The next state of an outcome, if it has one. -/
def nextOf : Host.Outcome State Fault Refusal → Option State
  | .next s => some s
  | .fault _ => none
  | .refused _ => none

/-- The fault of an outcome. -/
def faultOf : Host.Outcome State Fault Refusal → Option Fault
  | .fault f => some f
  | .next _ => none
  | .refused _ => none

/-- The refusal of an outcome. -/
def refusalOf : Host.Outcome State Fault Refusal → Option Refusal
  | .refused r => some r
  | .next _ => none
  | .fault _ => none

/-- STATUS after an outcome. -/
def statusAfter (o : Host.Outcome State Fault Refusal) : Option Word := (nextOf o).map statusWord

/-- The last value a host read returned, after an outcome. -/
def readAfter (o : Host.Outcome State Fault Refusal) : Option HostValue := (nextOf o).bind fun s => s.reads.getLast?

/-- The test instance of the sync tables (95_test_vectors.md): `SYNC1[j] = j`, `SYNC2[r][j] = 0x10*r + j`. -/
def testRom : SyncRom where
  sync1 := Vector.ofFn fun j => BitVec.ofNat 8 j.val
  sync2 := Vector.ofFn fun r => Vector.ofFn fun j => BitVec.ofNat 8 (0x10 * r.val + j.val)
  sync3 := Vector.replicate 9 0xFF#8

/-- The reset state with the test sync tables. -/
def base : State := { State.reset with rom := testRom }

/-- After a completed PACK (STATUS `0x00000006`), with AFB_LEN as given. -/
def packed (len : BitVec 11) : State := { base with pvbValid := true, done := true, afbLen := len }

/-- Both lengths at their full size. -/
def loaded : State := { base with ifbLen := 207360#18, afbLen := 1960#11 }

/-- The packer running at a position. -/
def packing (row : BitVec 8) (trip : BitVec 6) : State :=
  { base with busy := true, engine := .packer, row := row, trip := trip }

/-- The packer at a position whose six source bytes, from offset `a`, are `12 34 56 78 9A BC`. -/
def packingExample (row : BitVec 8) (trip : BitVec 6) (a : Nat) : State :=
  { packing row trip with
    ifb := [(a, 0x12#8), (a + 1, 0x34#8), (a + 2, 0x56#8), (a + 3, 0x78#8), (a + 4, 0x9A#8), (a + 5, 0xBC#8)] }

/-- The multiplexer running at a position, with the sink's coming answers. -/
def muxing (group : BitVec 11) (byte : BitVec 4) (sink : List SinkAnswer) : State :=
  { base with
    busy := true, pvbValid := true, engine := .multiplexer, afbLen := 1960#11, group := group, byte := byte, sink := sink }

/-- A buffer of `n` bytes, every one `v`. -/
@[irreducible] def filled (n : Nat) (v : Byte) : Memory := (List.range n).map fun a => (a, v)

theorem read_map_of_mem (l : List Nat) (v : Byte) {a : Nat} (h : a ∈ l) :
    Memory.read (l.map fun x => (x, v)) a = some v := by
  induction l with
  | nil => cases h
  | cons b l ih =>
    simp only [List.map_cons, Memory.read_cons]
    split
    · rfl
    · next hne => exact ih ((List.mem_cons.1 h).resolve_left hne)

theorem filled_read {n a : Nat} (v : Byte) (h : a < n) : (filled n v).read a = some v := by
  unfold filled
  exact read_map_of_mem _ v (List.mem_range.2 h)

theorem filled_wf (n : Nat) (v : Byte) : (filled n v).wf n := by
  unfold filled
  refine ⟨List.pairwise_map.2 (List.pairwise_lt_range.imp id), fun c hc => ?_⟩
  obtain ⟨a, ha, rfl⟩ := List.mem_map.1 hc
  exact List.mem_range.1 ha

theorem filled_written (n : Nat) (v : Byte) : (filled n v).Written n := fun _ h => by rw [filled_read v h]; rfl

/-! ## Well-formedness: an ill-formed term for each check (30_encoding.md R105), and the last well-formed offset -/

theorem test_wf_afb : (Instr.afbRd 1960#11).wellFormed = false ∧ (Instr.afbWr 1960#11 0#8).wellFormed = false ∧
    (Instr.afbRd 1959#11).wellFormed = true := by decide

theorem test_wf_pvb : (Instr.pvbRd 17280#15).wellFormed = false ∧ (Instr.pvbWr 17280#15 0#8).wellFormed = false ∧
    (Instr.pvbWr 17279#15 0#8).wellFormed = true := by decide

theorem test_wf_ifb : (Instr.ifbRd 207360#18).wellFormed = false ∧ (Instr.ifbWr 207360#18 0#8).wellFormed = false ∧
    (Instr.ifbWr 207359#18 0#8).wellFormed = true := by decide

/-! ## Decoding: every constructor from a word written out from the spec -/

/-- Command words (30_encoding.md R101): OP in bits 3:0, RSVD zero. -/
theorem test_decode_commands :
    decode (.cmd 0b00000000000000000000000000000000#32) = .ok .nop ∧
    decode (.cmd 0b00000000000000000000000000000001#32) = .ok .pack ∧
    decode (.cmd 0b00000000000000000000000000000010#32) = .ok .mux ∧
    decode (.cmd 0b00000000000000000000000000000011#32) = .ok .encode ∧
    decode (.cmd 0b00000000000000000000000000001111#32) = .ok .reset := by decide

/-- Illegal words (30_encoding.md R102; 95_test_vectors.md V-C1 rows 8 and 9). -/
theorem test_decode_illegal_commands :
    decode (.cmd 0x00000004#32) = .rejected .illegalCommand ∧ decode (.cmd 0x0000000E#32) = .rejected .illegalCommand ∧
    decode (.cmd 0x00000010#32) = .rejected .illegalCommand ∧ decode (.cmd 0x80000001#32) = .rejected .illegalCommand := by
  decide

/-- Micro-op codes (30_encoding.md R103). -/
theorem test_decode_uops :
    decode (.uop 0b0000#4) = .ok .idle ∧ decode (.uop 0b0001#4) = .ok .packEven ∧ decode (.uop 0b0010#4) = .ok .packOdd ∧
    decode (.uop 0b1000#4) = .ok .muxSync1 ∧ decode (.uop 0b1001#4) = .ok .muxSync2 ∧
    decode (.uop 0b1010#4) = .ok .muxSync3 ∧ decode (.uop 0b1011#4) = .ok .muxVideo ∧
    decode (.uop 0b1100#4) = .ok .muxAudio := by decide

/-- The codes 3 to 7 and 0xD to 0xF are unused (30_encoding.md R103). -/
theorem test_decode_unused_uops :
    decode (.uop 0x3#4) = .rejected .unusedUop ∧ decode (.uop 0x7#4) = .rejected .unusedUop ∧
    decode (.uop 0xD#4) = .rejected .unusedUop ∧ decode (.uop 0xF#4) = .rejected .unusedUop := by decide

/-- `WR, SIZE, ADDR` (30_encoding.md R105), the fields written out: `rd FRAMES`, `wr AFB_LEN`, the last AFB bytes, the PVB
and the IFB window. -/
theorem test_decode_bus :
    decode (.bus 0b01000000000000000011100#23 0#32) = .ok (.regRd 7#6) ∧
    decode (.bus 0b11000000000000000001100#23 0x000007A8#32) = .ok (.regWr 3#6 0x000007A8#32) ∧
    decode (.bus 0b00000010000011110100111#23 0#32) = .ok (.afbRd 1959#11) ∧
    decode (.bus 0b10000010000011110100111#23 0x80#32) = .ok (.afbWr 1959#11 0x80#8) ∧
    decode (.bus 0b00000100100001101111111#23 0#32) = .ok (.pvbRd 17279#15) ∧
    decode (.bus 0b10000100000000000000000#23 0x55#32) = .ok (.pvbWr 0#15 0x55#8) ∧
    decode (.bus 0b00001000000000000000000#23 0#32) = .ok (.ifbRd 0#18) ∧
    decode (.bus 0b10001110010100111111111#23 0xA5#32) = .ok (.ifbWr 207359#18 0xA5#8) := by decide

/-- The same descriptors as 95_test_vectors.md writes them. -/
theorem test_descriptors :
    busDescriptor false 2#2 0x1C = 0x20001C#23 ∧ busDescriptor true 2#2 0x0C = 0x60000C#23 ∧
    busDescriptor true 0#2 0x107A7 = 0x4107A7#23 ∧ busDescriptor false 0#2 0x2437F = 0x02437F#23 ∧
    busDescriptor true 0#2 0x729FF = 0x4729FF#23 := by decide

/-- Refused accesses (95_test_vectors.md V-H1 rows 13 to 18). -/
theorem test_decode_refused :
    decode (.bus 0x000004#23 0#32) = .rejected .hostWidth ∧ decode (.bus 0x240000#23 0#32) = .rejected .hostWidth ∧
    decode (.bus 0x200006#23 0#32) = .rejected .hostWidth ∧ decode (.bus 0x100004#23 0#32) = .rejected .hostWidth ∧
    decode (.bus 0x0107A8#23 0#32) = .rejected .hostUnmapped ∧ decode (.bus 0x072A00#23 0#32) = .rejected .hostUnmapped ∧
    decode (.bus 0x200100#23 0#32) = .rejected .hostUnmapped := by decide

/-- Table words: a command in 32 bits, a micro-op in one byte, a descriptor in three. -/
theorem test_table_words :
    decodeTableWord 32 0x0000000F = some .reset ∧ decodeTableWord 8 0x0B = some .muxVideo ∧
    decodeTableWord 24 0x200000 = some (.regRd 0#6) ∧ decodeTableWord 24 0x440000 = some (.ifbWr 0#18 0#8) ∧
    decodeTableWord 32 0x00000004 = none ∧ decodeTableWord 8 0x03 = none := by decide

/-- A word placed by withFetchWord runs in the very next step (95_test_vectors.md V-C1 row 2; V-M1 row 240). -/
theorem test_withFetchWord :
    statusAfter (step (State.reset.withFetchWord 32 0x00000001)) = some 0x00000020#32 ∧
    (nextOf (step (base.withFetchWord 8 0x09))).map (fun s => s.accepted) = some [0x00#8] ∧
    readAfter (step (State.reset.withFetchWord 24 0x20001C)) = some (.word 0#32) := by decide

/-! ## Registers and host accesses (95_test_vectors.md V-H1) -/

theorem test_regRd_cmd_and_reserved :
    readAfter (exec (.regRd 0#6) (packing 3#8 1#6)) = some (.word 0#32) ∧
    readAfter (exec (.regRd 8#6) base) = some (.word 0#32) ∧ readAfter (exec (.regRd 63#6) base) = some (.word 0#32) := by
  decide

/-- PACK_POS `0x0000114F` and SEQ 2 at (79, 17); MUX_POS `0x00009023` and SEQ 0xC at (35, 9) (V-P2, V-M1). -/
theorem test_regRd_positions :
    readAfter (exec (.regRd 4#6) (packing 79#8 17#6)) = some (.word 0x0000114F#32) ∧
    readAfter (exec (.regRd 6#6) (packing 79#8 17#6)) = some (.word 0x2#32) ∧
    readAfter (exec (.regRd 5#6) (muxing 35#11 9#4 [])) = some (.word 0x00009023#32) ∧
    readAfter (exec (.regRd 6#6) (muxing 35#11 9#4 [])) = some (.word 0xC#32) ∧
    readAfter (exec (.regRd 1#6) (muxing 35#11 9#4 [])) = some (.word 0x00000203#32) := by decide

theorem test_regWr_lengths :
    (nextOf (exec (.regWr 2#6 0xFFFFFFFF#32) base)).map ifbLenWord = some 0x0003FFFF#32 ∧
    (nextOf (exec (.regWr 3#6 0x000107A8#32) base)).map afbLenWord = some 0x000007A8#32 := by decide

theorem test_regWr_status :
    statusAfter (exec (.regWr 1#6 0xFFFFFFFF#32) (packed 0#11)) = some 0x00000006#32 ∧
    statusAfter (exec (.regWr 1#6 0#32) (packing 0#8 0#6)) = some 0x00000109#32 := by decide

theorem test_ifbWr :
    (nextOf (exec (.ifbWr 0#18 0x55#8) base)).map (fun s => s.ifb) = some [(0, 0x55#8)] ∧
    (nextOf (exec (.ifbWr 0#18 0x55#8) (packing 0#8 0#6))).map (fun s => (s.ifb, s.ovr)) = some ([], true) := by decide

theorem test_ifbRd :
    readAfter (exec (.ifbRd 0#18) { base with ifb := [(0, 0x55#8)] }) = some (.byte 0x55#8) ∧
    faultOf (exec (.ifbRd 0#18) base) = some .unwrittenRead := by decide

theorem test_afbWr : (nextOf (exec (.afbWr 1959#11 0x80#8) base)).map (fun s => s.afb) = some [(1959, 0x80#8)] := by decide

theorem test_afbRd : readAfter (exec (.afbRd 1959#11) { base with afb := [(1959, 0x80#8)] }) = some (.byte 0x80#8) := by
  decide

theorem test_pvbWr :
    (nextOf (exec (.pvbWr 0#15 0x55#8) { base with pvb := [(0, 1#8)] })).map (fun s => (s.pvb, s.ovr)) =
      some ([(0, 1#8)], false) := by decide

theorem test_pvbRd :
    readAfter (exec (.pvbRd 0#15) { muxing 0#11 0#4 [] with pvb := [(0, 0xAA#8)] }) = some (.byte 0xAA#8) ∧
    (nextOf (exec (.pvbRd 0#15) (packing 0#8 0#6))).map (fun s => s.draws) = some 1 := by decide

/-! ## Commands (95_test_vectors.md V-C1, by row) -/

/-- Rows 10 and 18. -/
theorem test_nop :
    statusAfter (exec .nop (packed 0#11)) = some 0x00000006#32 ∧
    statusAfter (exec .nop (packing 0#8 0#6)) = some 0x00000101#32 := by decide

/-- Rows 2, 3, 4, 12. -/
theorem test_pack :
    statusAfter (exec .pack base) = some 0x00000020#32 ∧
    statusAfter (exec .pack { base with ifbLen := 207359#18 }) = some 0x00000020#32 ∧
    statusAfter (exec .pack { base with ifbLen := 207360#18 }) = some 0x00000101#32 ∧
    statusAfter (exec .pack (packed 0#11)) = some 0x00000022#32 := by decide

/-- Row 17, and row 21 of an error 3. -/
theorem test_pack_dropped_and_sticky :
    statusAfter (exec .pack { packing 0#8 0#6 with ifbLen := 207360#18 }) = some 0x00000109#32 ∧
    statusAfter (exec .pack { loaded with err := .noVideo }) = some 0x00000030#32 := by decide

/-- Rows 7, 13, 14, 15. -/
theorem test_mux :
    statusAfter (exec .mux base) = some 0x00000030#32 ∧
    statusAfter (exec .mux (packed 1000#11)) = some 0x00000042#32 ∧
    statusAfter (exec .mux (packed 1960#11)) = some 0x00000203#32 ∧
    statusAfter (exec .mux { base with done := true, afbLen := 1960#11 }) = some 0x00000030#32 := by decide

/-- Rows 5, 6, 16. -/
theorem test_encode :
    statusAfter (exec .encode { loaded with afbLen := 0#11 }) = some 0x00000040#32 ∧
    statusAfter (exec .encode base) = some 0x00000020#32 ∧ statusAfter (exec .encode loaded) = some 0x00000501#32 := by
  decide

/-- Rows 8, 11, 20: illegal words. -/
theorem test_illegal_words :
    statusAfter (exec (.regWr 0#6 0x00000004#32) base) = some 0x00000010#32 ∧
    statusAfter (exec (.regWr 0#6 0x00000005#32) (packed 0#11)) = some 0x00000012#32 ∧
    statusAfter (step { base with err := .noVideo, inputs := [.cmd 0x00000010#32] }) = some 0x00000030#32 := by decide

/-- Rows 19 and 22; V-R1. -/
theorem test_reset :
    (nextOf (exec .reset { muxing 40#11 0#4 [.accept] with accepted := [1#8], pvb := [(0, 1#8)], offered := some 1#8 })).map
      (fun s => (statusWord s + muxPosWord s, s.pvb, s.accepted, s.offered)) = some (0#32, [], [1#8], none) ∧
    statusAfter (step { base with err := .noVideo, inputs := [.rst] }) = some 0#32 := by decide

/-! ## The packer (95_test_vectors.md V-P1, V-P2) -/

theorem test_triplets :
    evenTriplet ⟨0x12#8, 0x34#8, 0x56#8, 0x78#8, 0x9A#8, 0xBC#8⟩ = ⟨0x13#8, 0x57#8, 0x9B#8⟩ ∧
    oddTriplet ⟨0x12#8, 0x34#8, 0x56#8, 0x78#8, 0x9A#8, 0xBC#8⟩ = ⟨0x35#8, 0x19#8, 0xB7#8⟩ ∧
    evenTriplet ⟨0x1F#8, 0x2E#8, 0x3D#8, 0x4C#8, 0x5B#8, 0x6A#8⟩ = ⟨0x12#8, 0x34#8, 0x56#8⟩ ∧
    oddTriplet ⟨0x1F#8, 0x2E#8, 0x3D#8, 0x4C#8, 0x5B#8, 0x6A#8⟩ = ⟨0x23#8, 0x15#8, 0x64#8⟩ := by decide

theorem test_pack_addresses :
    packSrc 0 0 = 206064 ∧ packSrc 0 35 = 207324 ∧ packSrc 1 0 = 204768 ∧ packSrc 79 17 = 104292 ∧ packSrc 159 35 = 1260 ∧
    pvbOff 0 35 0 = 105 ∧ pvbOff 1 0 0 = 108 ∧ pvbOff 79 17 0 = 8583 ∧ pvbOff 159 35 0 = 17277 := by decide

/-- At (0, 0) and at the end of row 0. -/
theorem test_packEven :
    (nextOf (exec .packEven (packingExample 0#8 0#6 206064))).map (fun s => (s.pvb, packPosWord s)) =
      some ([(0, 0x13#8), (1, 0x57#8), (2, 0x9B#8)], 0x00000100#32) ∧
    (nextOf (exec .packEven (packingExample 0#8 35#6 207324))).map packPosWord = some 0x00000001#32 := by decide

/-- At (1, 0), and the completion at (159, 35). -/
theorem test_packOdd :
    (nextOf (exec .packOdd (packingExample 1#8 0#6 204768))).map (fun s => (s.pvb, packPosWord s)) =
      some ([(108, 0x35#8), (109, 0x19#8), (110, 0xB7#8)], 0x00000101#32) ∧
    (nextOf (exec .packOdd (packingExample 159#8 35#6 1260))).map (fun s => (packPosWord s, statusWord s)) =
      some (0x000000A0#32, 0x00000006#32) := by decide

/-- V-C1 row 4: the first micro-op of a never written frame faults. -/
theorem test_pack_unwritten : faultOf (step (packing 0#8 0#6)) = some .unwrittenRead := by decide

/-- V-F1: bytes of `PackFrame(G)`, `G` the gradient `a mod 251`. -/
theorem test_packFrame :
    packFrame (fun a => BitVec.ofNat 8 (a % 251)) 0 0 0 = 0xFF#8 ∧ packFrame (fun a => BitVec.ofNat 8 (a % 251)) 0 1 0 = 0x11#8 ∧
    packFrame (fun a => BitVec.ofNat 8 (a % 251)) 1 0 2 = 0xDC#8 ∧ packFrame (fun a => BitVec.ofNat 8 (a % 251)) 79 17 0 = 0x88#8 := by
  decide

/-! ## The multiplexer (95_test_vectors.md V-M1, V-M2, V-S1) -/

theorem test_muxSync1 :
    (nextOf (exec .muxSync1 (muxing 0#11 8#4 [.accept]))).map (fun s => (s.accepted, muxPosWord s)) =
      some ([0x08#8], 0x00009000#32) := by decide

/-- SYNC2[11][8] is B8. -/
theorem test_muxSync2 :
    (nextOf (exec .muxSync2 (muxing 35#11 8#4 [.accept]))).map (fun s => (s.accepted, muxPosWord s)) =
      some ([0xB8#8], 0x00009023#32) := by decide

theorem test_muxSync3 :
    (nextOf (exec .muxSync3 (muxing 39#11 8#4 [.accept]))).map (fun s => s.accepted) = some [0xFF#8] := by decide

/-- PVB[12] at (41, 3). -/
theorem test_muxVideo :
    (nextOf (exec .muxVideo { muxing 41#11 3#4 [.accept] with pvb := [(12, 0x44#8)] })).map (fun s => s.accepted) =
      some [0x44#8] ∧
    (nextOf (exec .muxVideo { muxing 40#11 0#4 [.fail] with pvb := [(0, 0x44#8)] })).map
      (fun s => (muxPosWord s, statusWord s, s.accepted)) = some (0x00000028#32, 0x00000052#32, []) := by decide

/-- AFB[0] at (0, 9), and the completion at (1959, 9). -/
theorem test_muxAudio :
    (nextOf (exec .muxAudio { muxing 0#11 9#4 [.accept] with afb := [(0, 0x80#8)] })).map
      (fun s => (s.accepted, muxPosWord s)) = some ([0x80#8], 0x00000001#32) ∧
    (nextOf (exec .muxAudio { muxing 1959#11 9#4 [.accept] with afb := [(1959, 0x27#8)] })).map
      (fun s => (muxPosWord s, statusWord s, s.frames, s.afbLen)) = some (0x000007A8#32, 0x00000004#32, 1#32, 0#11) := by
  decide

/-- The sink's other answers: no answer, and both signals at once (20_memory.md R70, 60_exceptions.md R229). -/
theorem test_sink_answers :
    (nextOf (step (muxing 0#11 5#4 []))).map (fun s => (s.offered, s.byte, s.accepted)) = some (some 5#8, 5#4, []) ∧
    refusalOf (step (muxing 0#11 5#4 [.readyAndFail])) = some .sinkProtocol := by decide

/-- IDLE changes nothing; of an idle sequencer no other micro-op is a step (42_commands.md R201). -/
theorem test_idle :
    statusAfter (step (packed 0#11)) = some 0x00000006#32 ∧ refusalOf (exec .packEven base) = some .noSuchStep := by decide

/-! ## Witnesses: a concrete state and operands for the hypotheses of each statement -/

theorem base_inv : base.Inv := by
  refine ⟨⟨?_, ?_, ?_, ?_, ?_, ?_, ?_, ?_, ?_, ?_, ?_⟩, ?_, ?_, ?_, ?_, ?_, ?_, rfl, nofun⟩ <;> decide

theorem mux_inv (sink : List SinkAnswer) : (muxing 0#11 0#4 sink).Inv := by
  refine ⟨⟨?_, ?_, ?_, ?_, ?_, ?_, ?_, ?_, ?_, ?_, ?_⟩, ?_, ?_, ?_, ?_, ?_, ?_, rfl, nofun⟩ <;>
    first | exact Memory.nil_wf _ | simp [muxing, base, State.reset]

theorem test_witness_encoding :
    (Instr.ifbWr 207359#18 0xA5#8).wellFormed = true ∧ (Instr.regWr 63#6 0xFFFFFFFF#32).wellFormed = true ∧
    decode (.cmd 0xF#32) = .ok .reset ∧ decode (.uop 0xC#4) = .ok .muxAudio ∧
    decode (.bus 0x4729FF#23 0xFFFFFFA5#32) = .ok (.ifbWr 207359#18 0xA5#8) := by decide

/-- BusDescriptorsRefused at the edges of the windows. -/
theorem test_witness_bus_edges :
    decode (.bus (busDescriptor false 2#2 0xFC) 0#32) = .ok (.regRd 63#6) ∧
    decode (.bus (busDescriptor false 0#2 0xFF) 0#32) = .rejected .hostWidth ∧
    decode (.bus (busDescriptor false 2#2 0xFF) 0#32) = .rejected .hostWidth ∧
    decode (.bus (busDescriptor false 2#2 0x100) 0#32) = .rejected .hostUnmapped ∧
    decode (.bus (busDescriptor false 0#2 0xFFFF) 0#32) = .rejected .hostUnmapped ∧
    decode (.bus (busDescriptor false 0#2 0x10000) 0#32) = .ok (.afbRd 0#11) ∧
    decode (.bus (busDescriptor false 0#2 0x24380) 0#32) = .rejected .hostUnmapped ∧
    decode (.bus (busDescriptor true 3#2 0xFFFFF) 0#32) = .rejected .hostWidth ∧
    decode (.bus (busDescriptor true 2#2 0x729FF) 0#32) = .rejected .hostWidth := by decide

/-- StepRunsTheDecodedAccess, each clause; also the busy refusals of WritesWhileBusyAreDropped. -/
theorem test_witness_accesses :
    { base with inputs := [.bus 0x200004#23 0#32] }.inputs = [.bus 0x200004#23 0#32] ∧
    decode (.bus 0x200004#23 0#32) = .ok (.regRd 1#6) ∧ decode (.bus 0x000004#23 0#32) = .rejected .hostWidth ∧
    decode (.bus 0x0107A8#23 0#32) = .rejected .hostUnmapped ∧ decode (.cmd 3#32) = .ok .encode ∧
    decode (.cmd 4#32) = .rejected .illegalCommand := by decide

/-- SequencerRunsTheNamedMicroOp, each clause at the edges of its range of groups. -/
theorem test_witness_positions :
    base.inputs = [] ∧ base.engine = .idle ∧ (packing 158#8 0#6).row.toNat % 2 = 0 ∧ (packing 159#8 35#6).row.toNat % 2 = 1 ∧
    seqUop (muxing 0#11 9#4 []) = 0xC#4 ∧ seqUop (muxing 23#11 0#4 []) = 0x8#4 ∧ seqUop (muxing 24#11 0#4 []) = 0x9#4 ∧
    seqUop (muxing 35#11 0#4 []) = 0x9#4 ∧ seqUop (muxing 36#11 0#4 []) = 0xA#4 ∧ seqUop (muxing 39#11 8#4 []) = 0xA#4 ∧
    seqUop (muxing 40#11 0#4 []) = 0xB#4 ∧ seqUop (muxing 1959#11 8#4 []) = 0xB#4 := by decide

theorem test_witness_reset :
    (∃ t, exec .reset (muxing 3#11 4#4 []) = .next t) ∧
    ∃ s t : State, s.inputs = [.rst] ∧ step s = .next t ∧ t.inputs = [] :=
  ⟨⟨_, rfl⟩, { base with inputs := [.rst] }, _, rfl, rfl, rfl⟩

/-- The idle and the busy states of the register and buffer statements, with the offsets at their edges. -/
theorem test_witness_idle_busy :
    base.busy = false ∧ (packing 0#8 0#6).busy = true ∧ (7#6).toNat ≠ 0 ∧ (8#6).toNat = 8 ∧ (63#6).toNat = 63 ∧
    (207359#18).toNat < 207360 ∧ (1959#11).toNat < 1960 ∧ (17279#15).toNat < 17280 := by decide

/-- The buffer reads: a written byte in each buffer, an unwritten one, and the packer running. -/
theorem test_witness_buffer_reads :
    Memory.read [(207359, 5#8)] (207359#18).toNat = some 5#8 ∧ Memory.read [(1959, 5#8)] (1959#11).toNat = some 5#8 ∧
    Memory.read [(17279, 5#8)] (17279#15).toNat = some 5#8 ∧ base.engine ≠ .packer ∧ (packing 0#8 0#6).engine = .packer ∧
    base.pvb.read 0 = none ∧ base.ifb.read 0 = none ∧ base.afb.read 0 = none := by decide

theorem test_witness_host_reads : ∃ t, exec (.regRd 7#6) base = .next t ∧ ∃ u, exec (.pvbRd 0#15) (packing 0#8 0#6) = .next u :=
  ⟨_, rfl, _, rfl⟩

/-- CommandChecksDecideInOrder and the starts: one idle state for each check, in R225's order. -/
theorem test_witness_checks :
    { base with err := .sink }.err ≠ .none ∧ base.busy = false ∧ base.err = .none ∧ base.ifbLen.toNat ≠ 207360 ∧
    base.pvbValid = false ∧ (packed 1959#11).pvbValid = true ∧ (packed 1959#11).afbLen.toNat ≠ 1960 ∧
    (packed 1960#11).afbLen.toNat = 1960 ∧ (packed 1960#11).err = .none ∧ loaded.ifbLen.toNat = 207360 ∧
    loaded.afbLen.toNat = 1960 ∧ loaded.busy = false ∧ loaded.err = .none := by decide

theorem test_witness_commands : ∃ t u v, exec .pack loaded = .next t ∧ exec .mux (packed 1960#11) = .next u ∧
    exec .encode loaded = .next v := ⟨_, _, _, rfl, rfl, rfl⟩

/-- ErrorsStopTheBlockAndNothingElse: an idle block whose PACK finds no frame. -/
theorem test_witness_first_error : ∃ t, base.Inv ∧ exec .pack base = .next t ∧ base.err = .none ∧ t.err ≠ .none :=
  ⟨_, base_inv, rfl, rfl, by decide⟩

/-- ErrorsAreSticky: an erroneous idle block, which steps without a reset, and one that is reset. -/
theorem test_witness_sticky :
    ∃ s t u v : State, s.err ≠ .none ∧ s.busy = false ∧ step s = .next t ∧ ¬ ResetsNext s ∧
      u.err ≠ .none ∧ step u = .next v ∧ ResetsNext u :=
  ⟨{ base with err := .sink, inputs := [.cmd 1#32] }, _, { base with err := .sink, inputs := [.cmd 0xF#32] }, _,
    by decide, rfl, rfl, by rintro (⟨u, h⟩ | ⟨u, h⟩ | ⟨u, h⟩) <;> simp [fetch, fetchCommand, decode, decodeCommand] at h,
    by decide, rfl, .inr (.inl ⟨_, rfl⟩)⟩

/-- OvrLastsUntilReset: a dropped write sets OVR, and a step keeps it. -/
theorem test_witness_ovr :
    ∃ s t u v : State, s.ovr = false ∧ step s = .next t ∧ t.ovr = true ∧
      ¬ ResetsNext u ∧ u.ovr = true ∧ step u = .next v :=
  ⟨{ packing 0#8 0#6 with inputs := [.cmd 1#32] }, _, { base with ovr := true }, _, rfl, rfl, rfl,
    by rintro (⟨u, h⟩ | ⟨u, h⟩ | ⟨u, h⟩) <;> simp [fetch, fetchEncoded, decode, decodeUop, seqUop, base, State.reset] at h,
    rfl, rfl⟩

/-- PackEvenPacksItsTriplet and PackOddPacksItsTriplet, at the last triplet of each parity and with no byte written. -/
theorem test_witness_pack :
    (packingExample 158#8 35#6 2556).engine = .packer ∧ (packingExample 158#8 35#6 2556).row.toNat < 160 ∧
    (packingExample 158#8 35#6 2556).row.toNat % 2 = 0 ∧ (packingExample 158#8 35#6 2556).trip.toNat < 36 ∧
    ((159 - 158) * 432 + 12 * 35) * 3 = 2556 ∧
    readPixels (packingExample 158#8 35#6 2556).ifb 2556 = some ⟨0x12#8, 0x34#8, 0x56#8, 0x78#8, 0x9A#8, 0xBC#8⟩ ∧
    (packingExample 159#8 35#6 1260).row.toNat % 2 = 1 ∧ ((159 - 159) * 432 + 12 * 35) * 3 = 1260 ∧
    readPixels (packingExample 159#8 35#6 1260).ifb 1260 = some ⟨0x12#8, 0x34#8, 0x56#8, 0x78#8, 0x9A#8, 0xBC#8⟩ ∧
    (packing 159#8 35#6).ifb.read 1260 = none := by decide

/-- PackMicroOpsAdvance, its two clauses; PackMicroOpsKeepTheRest. -/
theorem test_witness_advance :
    (∃ t, exec .packEven (packingExample 0#8 34#6 207288) = .next t) ∧
    ∃ t, exec .packEven (packingExample 158#8 35#6 2556) = .next t := ⟨⟨_, rfl⟩, ⟨_, rfl⟩⟩

/-- PackCompletionHandsOver, without CHAIN and with it; EncodeHandOverIsPackThenMux. -/
theorem test_witness_completion :
    (∃ t, exec .packOdd (packingExample 159#8 35#6 1260) = .next t) ∧
    ∃ s t u : State, s.err = .none ∧ s.done = false ∧ s.afbLen.toNat = 1960 ∧ s.row.toNat = 159 ∧ s.trip.toNat = 35 ∧
      exec .packOdd { s with chain := true } = .next t ∧ exec .packOdd { s with chain := false } = .next u :=
  ⟨⟨_, rfl⟩, { packingExample 159#8 35#6 1260 with afbLen := 1960#11 }, _, _, rfl, rfl, rfl, rfl, rfl, rfl, rfl⟩

/-- The packer's first triplet packs, whatever the frame, once its source bytes are written. -/
theorem packEven_first {s : State} {v : Byte} (he : s.engine = .packer) (hr : s.row = 0#8) (ht : s.trip = 0#6)
    (h : ∀ a < 207360, s.ifb.read a = some v) : ∃ t, exec .packEven s = .next t := by
  have hp : readPixels s.ifb (packSrc 0 0) = some ⟨v, v, v, v, v, v⟩ := by
    rw [show packSrc 0 0 = 206064 by decide]
    simp [readPixels, h]
  have hu : seqUop s = 0x1#4 := by simp [seqUop, he, hr, lineEven, parityRow]
  simp only [exec, execPackEven, packTriplet, hu, hr, ht, BitVec.toNat_ofNat, Nat.zero_mod, hp]
  exact ⟨_, rfl⟩

/-- PackDependsOnHighNibblesOfTwoColumns: frames `A5` and `AF`, alike in bits 7:4. -/
theorem test_witness_nibbles : ∃ s t : State,
    (∀ r c k, r < 160 → c < 432 → k < 3 → c % 12 < 2 →
      ((filled 207360 0xAF#8).read (ifbOff r c k)).map (fun x : Byte => x >>> 4) =
        (s.ifb.read (ifbOff r c k)).map (fun x : Byte => x >>> 4)) ∧
    exec .packEven s = .next t := by
  obtain ⟨t, ht⟩ := packEven_first (s := { packing 0#8 0#6 with ifb := filled 207360 0xA5#8 }) rfl rfl rfl
    fun _ h => filled_read 0xA5#8 h
  refine ⟨_, t, ?_, ht⟩
  intro r c k hr hc hk _
  have h : ifbOff r c k < 207360 := by simp only [ifbOff, Config.width, Config.bpp]; omega
  show _ = ((filled 207360 0xA5#8).read (ifbOff r c k)).map _
  rw [filled_read _ h, filled_read _ h]
  rfl

/-- PackRunLeavesThePackedFrame: the frame `U` of 95_test_vectors.md. -/
theorem test_witness_pack_run : ∃ (s : State) (F : Nat → Byte), s.busy = false ∧ s.err = .none ∧
    s.ifbLen.toNat = 207360 ∧ s.inputs = [.cmd 0x00000001#32] ∧ ∀ a < 207360, s.ifb.read a = some (F a) :=
  ⟨{ base with ifbLen := 207360#18, inputs := [.cmd 0x00000001#32], ifb := filled 207360 0xA5#8 }, fun _ => 0xA5#8,
    rfl, rfl, rfl, rfl, fun _ h => filled_read _ h⟩

/-- SyncMicroOpsEmitTheRom, each clause at the last byte of the last group of its phase. -/
theorem test_witness_sync :
    (muxing 23#11 8#4 [.accept]).group.toNat < 24 ∧ (muxing 35#11 8#4 [.accept]).group.toNat = 24 + 11 ∧
    (muxing 39#11 8#4 [.accept]).group.toNat < 40 ∧ (muxing 39#11 8#4 [.accept]).byte.toNat < 9 ∧
    (muxing 39#11 8#4 [.accept]).engine = .multiplexer ∧ (muxing 39#11 8#4 [.accept]).sink = [.accept] := by decide

/-- VideoAndAudioMicroOpsEmitTheBuffers, a written and an unwritten byte of each buffer. -/
theorem test_witness_video_audio :
    { muxing 1959#11 8#4 [.accept] with pvb := [(17279, 7#8)] }.pvb.read (9 * (1959 - 40) + 8) = some 7#8 ∧
    { muxing 1959#11 9#4 [.accept] with afb := [(1959, 7#8)] }.afb.read 1959 = some 7#8 ∧
    (muxing 40#11 0#4 []).pvb.read 0 = none ∧ (muxing 0#11 9#4 []).afb.read 0 = none := by decide

/-- EmissionFollowsTheSinksAnswer, for each answer. -/
theorem test_witness_emission (sink : List SinkAnswer) :
    decode (.uop (seqUop (muxing 0#11 5#4 sink))) = .ok .muxSync1 ∧ (muxing 0#11 5#4 sink).engine = .multiplexer ∧
    muxByte (muxing 0#11 5#4 sink) 0 5 = some 5#8 ∧ (muxing 0#11 5#4 sink).sink = sink := ⟨rfl, rfl, rfl, rfl⟩

/-- AcceptedBytesAdvanceOrComplete, its three clauses; MuxMicroOpsKeepTheRest. -/
theorem test_witness_accepted :
    (∃ t, exec .muxSync1 (muxing 0#11 8#4 [.accept]) = .next t) ∧
    (∃ t, exec .muxAudio { muxing 1958#11 9#4 [.accept] with afb := [(1958, 1#8)] } = .next t) ∧
    ∃ t, exec .muxAudio { muxing 1959#11 9#4 [.accept] with afb := [(1959, 1#8)] } = .next t :=
  ⟨⟨_, rfl⟩, ⟨_, rfl⟩, ⟨_, rfl⟩⟩

/-- SinkHoldsThePayloadPrefix: a payload about to begin, for a sink that accepts or fails. -/
theorem test_witness_prefix (answer : SinkAnswer) (h : answer ≠ .readyAndFail) : ∃ t,
    (muxing 0#11 0#4 [answer]).Inv ∧ (muxing 0#11 0#4 [answer]).engine = .multiplexer ∧
    PayloadPrefix [] (muxing 0#11 0#4 [answer]) (10 * 0 + 0) ∧ step (muxing 0#11 0#4 [answer]) = .next t := by
  have hs : ∃ t, step (muxing 0#11 0#4 [answer]) = .next t := by
    cases answer
    · exact ⟨_, rfl⟩
    · exact ⟨_, rfl⟩
    · exact ⟨_, rfl⟩
    · exact absurd rfl h
  obtain ⟨t, ht⟩ := hs
  exact ⟨t, mux_inv _, rfl, ⟨[], rfl, rfl, fun p hp => absurd hp (by omega)⟩, ht⟩

/-- SinkHoldsThePayloadPrefix when a reset comes next. -/
theorem test_witness_prefix_reset : ∃ s t : State, s.engine = .multiplexer ∧ PayloadPrefix [] s 0 ∧ step s = .next t ∧
    ResetsNext s :=
  ⟨{ muxing 0#11 0#4 [] with inputs := [.rst] }, _, rfl, ⟨[], rfl, rfl, fun p hp => absurd hp (by omega)⟩, rfl,
    .inl ⟨_, rfl⟩⟩

theorem test_witness_mux_run : ∃ (s : State) (more : List SinkAnswer), s.busy = false ∧ s.err = .none ∧ s.pvbValid = true ∧
    s.afbLen.toNat = 1960 ∧ s.inputs = [.cmd 0x00000002#32] ∧ s.sink = List.replicate 19600 .accept ++ more ∧
    s.offered = none ∧ s.pvb.Written 17280 ∧ s.afb.Written 1960 :=
  ⟨{ packed 1960#11 with
      inputs := [.cmd 0x00000002#32], sink := List.replicate 19600 .accept ++ [], pvb := filled 17280 0xAA#8,
      afb := filled 1960 0x80#8 }, [],
    rfl, rfl, rfl, rfl, rfl, rfl, rfl, filled_written _ _, filled_written _ _⟩

theorem test_witness_encode_run : ∃ (s : State) (F : Nat → Byte) (more : List SinkAnswer), s.busy = false ∧ s.err = .none ∧
    s.ifbLen.toNat = 207360 ∧ s.afbLen.toNat = 1960 ∧ s.inputs = [.cmd 0x00000003#32] ∧
    s.sink = List.replicate 19600 .accept ++ more ∧ s.offered = none ∧ (∀ a < 207360, s.ifb.read a = some (F a)) ∧
    s.afb.Written 1960 :=
  ⟨{ loaded with
      inputs := [.cmd 0x00000003#32], sink := List.replicate 19600 .accept ++ [.fail], ifb := filled 207360 0xA5#8,
      afb := filled 1960 0x80#8 }, fun _ => 0xA5#8, [.fail],
    rfl, rfl, rfl, rfl, rfl, rfl, rfl, fun _ h => filled_read _ h, filled_written _ _⟩

/-- Launch states, reachable states and a step of each whole-machine statement. -/
theorem test_witness_launch : ∃ s t : State, Launch s ∧ s.Inv ∧ step s = .next t ∧ Reaches s t :=
  ⟨base, base, ⟨[], [], testRom.sync1, testRom.sync2, rfl⟩, base_inv, rfl, .single rfl⟩

/-- StepsKeepTheBuffersCanonical and SyncRomNeverChanges, on a step that writes a buffer. -/
theorem test_witness_canonical : ∃ s t : State, s.ifb.wf 207360 ∧ s.pvb.wf 17280 ∧ s.afb.wf 1960 ∧ step s = .next t ∧
    t.ifb = [(0, 0x55#8), (1, 0#8)] :=
  ⟨{ base with inputs := [.bus 0x440000#23 0x55#32], ifb := [(1, 0#8)] }, _, by decide, by decide, by decide, rfl, rfl⟩

/-- PackedBytesAreWritten: a multiplexer on a packed frame. -/
theorem test_witness_packed : ∃ s t : State, s.Inv ∧ PackedSoFar s ∧ s.pvbValid = true ∧ step s = .next t := by
  refine ⟨{ muxing 0#11 0#4 [.accept] with pvb := filled 17280 0xAA#8 }, _, ⟨⟨?_, ?_, ?_, ?_, ?_, ?_, ?_, ?_, ?_, ?_, ?_⟩,
    ?_, ?_, ?_, ?_, filled_wf _ _, ?_, rfl, nofun⟩, ⟨fun _ => filled_written _ _, nofun⟩, rfl, rfl⟩
  all_goals first | exact Memory.nil_wf _ | simp [muxing, base, State.reset]

/-- EngineInputsAreFrozenWhileBusy, FramesCountsCompletedPayloads and SinkReceivesOnlyTheNextByte: the last byte of a
payload is accepted. -/
theorem test_witness_last_byte : ∃ s t : State, s.busy = true ∧ step s = .next t ∧ ¬ ResetsNext s ∧
    s.engine = .multiplexer ∧ s.group.toNat = 1959 ∧ s.byte.toNat = 9 ∧ t.accepted ≠ s.accepted := by
  refine ⟨{ muxing 1959#11 9#4 [.accept] with afb := [(1959, 1#8)] }, _, rfl, rfl, ?_, rfl, rfl, rfl, by decide⟩
  rintro (⟨u, h⟩ | ⟨u, h⟩ | ⟨u, h⟩) <;>
    simp [fetch, fetchEncoded, decode, decodeUop, seqUop, muxing, base, State.reset] at h

end Sys2Proof.Tests
end

section
/-! SUPPORT. What each named operation keeps of the invariant (10_state.md R56), and what the invariant says of a stopped
or a running block. -/

namespace Sys2Proof.Machine

variable {s t : State}

/-! ## What the invariant says of an idle and of a running block -/

theorem State.Inv.engine_eq_idle (h : s.Inv) (hb : s.busy = false) : s.engine = .idle := by
  by_contra he
  exact absurd (h.legal.busy_iff_engine.2 he) (by simp [hb])

theorem State.Inv.busy_eq_true (h : s.Inv) (he : s.engine ≠ .idle) : s.busy = true :=
  h.legal.busy_iff_engine.2 he

theorem State.Inv.chain_eq_false (h : s.Inv) (he : s.engine ≠ .packer) : s.chain = false :=
  Bool.eq_false_iff.2 (mt h.legal.chain_only_packing he)

theorem State.Inv.offered_eq_none (h : s.Inv) (he : s.engine ≠ .multiplexer) : s.offered = none :=
  Option.eq_none_iff_forall_ne_some.2 fun v hv => he (h.offered_is_next v hv).1

theorem State.Inv.err_eq_none (h : s.Inv) (hb : s.busy = true) : s.err = .none := by
  by_contra he
  exact absurd hb (by simp [(h.legal.err_stops he).2])

/-! ## Updates of fields the invariant speaks of -/

theorem inv_setInputs (h : s.Inv) (rest : List Input) : State.Inv { s with inputs := rest } :=
  { h with legal := { h.legal with } }

theorem inv_dropWrite (h : s.Inv) : (dropWrite s).Inv :=
  { h with legal := { h.legal with } }

theorem inv_returnRead (h : s.Inv) (v : HostValue) : (returnRead v s).Inv :=
  { h with legal := { h.legal with } }

theorem inv_returnDraw (h : s.Inv) : (returnDraw s).Inv :=
  { h with legal := { h.legal with } }

theorem inv_setIfbLen (h : s.Inv) (n : BitVec 18) : State.Inv { s with ifbLen := n } :=
  { h with legal := { h.legal with } }

theorem inv_setAfbLen (h : s.Inv) (n : BitVec 11) : State.Inv { s with afbLen := n } :=
  { h with legal := { h.legal with } }

theorem inv_setIfb (h : s.Inv) {m : Memory} (hm : m.wf 207360) : State.Inv { s with ifb := m } :=
  { h with legal := { h.legal with }, ifb_wf := hm }

/-- PVB may change while the multiplexer, which offers its bytes, is not running. -/
theorem inv_setPvb (h : s.Inv) (he : s.engine ≠ .multiplexer) {m : Memory} (hm : m.wf 17280) :
    State.Inv { s with pvb := m } :=
  { h with
    legal := { h.legal with }
    pvb_wf := hm
    offered_is_next := fun v hv => absurd (h.offered_is_next v hv).1 he }

/-- AFB may change while the multiplexer, which offers its bytes, is not running. -/
theorem inv_setAfb (h : s.Inv) (he : s.engine ≠ .multiplexer) {m : Memory} (hm : m.wf 1960) :
    State.Inv { s with afb := m } :=
  { h with
    legal := { h.legal with }
    afb_wf := hm
    offered_is_next := fun v hv => absurd (h.offered_is_next v hv).1 he }

/-- The byte of the position may stand offered to the sink (20_memory.md R70). -/
theorem inv_offer (h : s.Inv) (he : s.engine = .multiplexer) {v : Byte}
    (hv : muxByte s s.group.toNat s.byte.toNat = some v) (rest : List SinkAnswer) :
    State.Inv { s with offered := some v, sink := rest } :=
  { h with
    legal := { h.legal with }
    offered_is_next := fun w hw => by cases hw; exact ⟨he, hv⟩ }

/-- The sink's answer withdraws the offered byte (20_memory.md R70). -/
theorem inv_withdraw (h : s.Inv) (bytes : List Byte) (rest : List SinkAnswer) :
    State.Inv { s with offered := none, accepted := bytes, sink := rest } :=
  { h with legal := { h.legal with }, offered_is_next := nofun }

/-! ## Commands, errors and resets -/

theorem inv_clearDone (h : s.Inv) : (clearDone s).Inv :=
  { h with
    legal := { h.legal with err_stops := fun he => ⟨rfl, (h.legal.err_stops he).2⟩ }
    busy_not_done := fun _ => rfl }

theorem inv_raiseError (h : s.Inv) (hd : s.done = false) (ho : s.offered = none) (code : ErrCode) :
    (raiseError code s).Inv :=
  { h with
    legal := { h.legal with
      busy_iff_engine := by simp
      err_stops := fun _ => ⟨hd, rfl⟩
      packer_holds_no_frame := nofun
      chain_only_packing := nofun
      mux_holds_frame := nofun }
    busy_not_done := nofun
    packer_inside := nofun
    mux_inside := nofun
    offered_is_next := fun v hv => absurd (ho.symm.trans hv) nofun }

/-- Reset leaves the invariant: only the ROM, which it keeps, comes from the state before. -/
theorem inv_resetBlock (h : s.Inv) : (resetBlock s).Inv where
  legal := by constructor <;> simp
  busy_not_done := nofun
  packer_inside := nofun
  mux_inside := nofun
  ifb_wf := Memory.nil_wf _
  pvb_wf := Memory.nil_wf _
  afb_wf := Memory.nil_wf _
  sync3_fixed := h.sync3_fixed
  offered_is_next := nofun

theorem inv_startPack (h : s.Inv) (hd : s.done = false) (he : s.err = .none) (ho : s.offered = none) :
    (startPack s).Inv :=
  { h with
    legal := { h.legal with
      busy_iff_engine := by simp
      err_stops := fun hn => absurd he hn
      packer_holds_no_frame := fun _ => rfl
      chain_only_packing := nofun
      mux_holds_frame := nofun
      row_le := by simp
      trip_le := by simp
      trip_at_end := fun _ => rfl }
    busy_not_done := fun _ => hd
    packer_inside := fun _ => by simp
    mux_inside := nofun
    offered_is_next := fun v hv => absurd (ho.symm.trans hv) nofun }

/-- CHAIN may be set while the packer runs. -/
theorem inv_startEncode (h : s.Inv) (hd : s.done = false) (he : s.err = .none) (ho : s.offered = none) :
    (startEncode s).Inv :=
  have hp := inv_startPack h hd he ho
  { hp with legal := { hp.legal with chain_only_packing := fun _ => rfl } }

theorem inv_startMux (h : s.Inv) (hd : s.done = false) (he : s.err = .none) (ho : s.offered = none)
    (hc : s.chain = false) (hv : s.pvbValid = true) : (startMux s).Inv :=
  { h with
    legal := { h.legal with
      busy_iff_engine := by simp
      err_stops := fun hn => absurd he hn
      packer_holds_no_frame := nofun
      chain_only_packing := fun hn => absurd (hc.symm.trans hn) nofun
      mux_holds_frame := fun _ => hv
      group_le := by simp
      byte_le := by simp
      byte_at_end := fun _ => rfl }
    busy_not_done := fun _ => hd
    packer_inside := nofun
    mux_inside := fun _ => by simp
    offered_is_next := fun v hv => absurd (ho.symm.trans hv) nofun }

/-- A PACK, MUX or ENCODE written while idle keeps the invariant, whatever its checks find (60_exceptions.md R225). -/
theorem inv_checkedStart (h : s.Inv) (hb : s.busy = false) (op : CheckedOp) :
    (checkedStart op (startOf op) (clearDone s)).Inv := by
  have he := h.engine_eq_idle hb
  have ho : (clearDone s).offered = none := h.offered_eq_none (by simp [he])
  have hc : (clearDone s).chain = false := h.chain_eq_false (by simp [he])
  rcases checkedStart_cases op (startOf op) (clearDone s) with ⟨hp, ht⟩ | ⟨code, -, ht⟩ | ⟨-, ht⟩ <;> rw [ht]
  · obtain ⟨hn, hv⟩ := commandChecks_pass hp
    cases op with
    | pack => exact inv_startPack (inv_clearDone h) rfl hn ho
    | mux => exact inv_startMux (inv_clearDone h) rfl hn ho hc (hv rfl)
    | encode => exact inv_startEncode (inv_clearDone h) rfl hn ho
  · exact inv_raiseError (inv_clearDone h) rfl ho code
  · exact inv_clearDone h

/-! ## Advance and completion of the engines -/

/-- The hand-over of ENCODE is the completion without CHAIN followed by the start of MUX (70_reset_and_hazards.md
R274). -/
theorem packComplete_handsOver (hc : s.chain = true) (hd : s.done = false) :
    packComplete s = startMux (clearDone (packComplete { s with chain := false })) := by
  rw [packComplete_of_chain hc, packComplete_of_no_chain rfl]
  simp [startMux, clearDone, hd]

/-- The packer's completion without CHAIN (40_pixel_packer.md R137). -/
theorem inv_packComplete_of_no_chain (h : s.Inv) (he : s.engine = .packer) :
    (packComplete { s with trip := 0#6, row := 160#8, chain := false }).Inv := by
  rw [packComplete_of_no_chain rfl]
  have hn := h.err_eq_none (h.busy_eq_true (by simp [he]))
  exact
    { h with
      legal := { h.legal with
        busy_iff_engine := by simp
        err_stops := fun hne => absurd hn hne
        packer_holds_no_frame := nofun
        chain_only_packing := nofun
        mux_holds_frame := nofun
        row_le := by simp
        trip_le := by simp
        trip_at_end := fun _ => rfl }
      busy_not_done := nofun
      packer_inside := nofun
      mux_inside := nofun
      offered_is_next := fun v hv => absurd (h.offered_is_next v hv).1 (by simp [he]) }

theorem inv_packComplete (h : s.Inv) (he : s.engine = .packer) :
    (packComplete { s with trip := 0#6, row := 160#8 }).Inv := by
  have hb := h.busy_eq_true (by simp [he])
  have hi := inv_packComplete_of_no_chain h he
  rcases Bool.eq_false_or_eq_true s.chain with hc | hc
  · rw [packComplete_handsOver (s := { s with trip := 0#6, row := 160#8 }) hc (h.busy_not_done hb)]
    exact inv_startMux (inv_clearDone hi) rfl (h.err_eq_none hb) (h.offered_eq_none (by simp [he])) rfl rfl
  · simpa only [hc] using hi

theorem inv_packAdvance (h : s.Inv) (he : s.engine = .packer) : (packAdvance s).Inv := by
  have hr := h.packer_inside he
  rcases packAdvance_cases hr with ⟨ht, hs⟩ | ⟨-, hr', hs⟩ | ⟨-, hr', hs⟩ <;> rw [hs]
  · exact { h with legal := { h.legal with trip_le := by bv_omega, trip_at_end := fun _ => by bv_omega } }
  · exact
      { h with
        legal := { h.legal with row_le := by bv_omega, trip_le := by simp, trip_at_end := fun _ => rfl }
        packer_inside := fun _ => by bv_omega }
  · rw [show s.row + 1#8 = 160#8 by bv_omega]
    exact inv_packComplete h he

/-- The multiplexer's completion (41_frame_multiplexer.md R169). -/
theorem inv_muxComplete (h : s.Inv) (he : s.engine = .multiplexer) (ho : s.offered = none) :
    (muxComplete { s with byte := 0#4, group := 1960#11 }).Inv :=
  have hn := h.err_eq_none (h.busy_eq_true (by simp [he]))
  have hc := h.chain_eq_false (by simp [he])
  { h with
    legal := { h.legal with
      busy_iff_engine := by simp
      err_stops := fun hne => absurd hn hne
      packer_holds_no_frame := nofun
      chain_only_packing := fun hct => absurd (hc.symm.trans hct) nofun
      mux_holds_frame := nofun
      group_le := by simp
      byte_le := by simp
      byte_at_end := fun _ => rfl }
    busy_not_done := nofun
    packer_inside := nofun
    mux_inside := nofun
    offered_is_next := fun v hv => absurd (ho.symm.trans hv) nofun }

theorem inv_muxAdvance (h : s.Inv) (he : s.engine = .multiplexer) (ho : s.offered = none) :
    (muxAdvance s).Inv := by
  have hno : ∀ (p : Byte → Prop) v, s.offered = some v → p v := fun _ v hv => absurd (ho.symm.trans hv) nofun
  have hin := h.mux_inside he
  rcases muxAdvance_cases hin with ⟨hb, hs⟩ | ⟨-, hg, hs⟩ | ⟨-, hg, hs⟩ <;> rw [hs]
  · exact
      { h with
        legal := { h.legal with byte_le := by bv_omega, byte_at_end := fun _ => by bv_omega }
        offered_is_next := hno _ }
  · exact
      { h with
        legal := { h.legal with group_le := by bv_omega, byte_le := by simp, byte_at_end := fun _ => rfl }
        mux_inside := fun _ => by bv_omega
        offered_is_next := hno _ }
  · rw [show s.group + 1#11 = 1960#11 by bv_omega]
    exact inv_muxComplete h he ho

/-! ## The micro-ops -/

/-- Three bytes of a triplet inside the frame lie inside PVB (20_memory.md R81). -/
theorem pvbOff_lt {o r : Nat} (ho : o < 160) (hr : r < 36) : pvbOff o r 0 + 2 < 17280 := by
  simp only [pvbOff, Config.rowBytes]
  omega

/-- A PACK micro-op keeps PVB in canonical form. -/
theorem packTriplet_pvb_wf {order : Pixels → Triplet} (hw : s.pvb.wf 17280) (h : packTriplet order s = .next t) :
    t.pvb.wf 17280 := by
  obtain ⟨ho, hr, p, -, rfl⟩ := packTriplet_cases h
  rw [packAdvance_pvb]
  exact writeTriplet_wf _ hw (pvbOff_lt ho hr)

theorem inv_packTriplet {order : Pixels → Triplet} (h : s.Inv) (he : s.engine = .packer)
    (hs : packTriplet order s = .next t) : t.Inv := by
  obtain ⟨ho, hr, p, -, rfl⟩ := packTriplet_cases hs
  exact inv_packAdvance (inv_setPvb h (by simp [he]) (writeTriplet_wf _ h.pvb_wf (pvbOff_lt ho hr))) he

theorem inv_emitStep (h : s.Inv) (he : s.engine = .multiplexer) {v : Byte}
    (hv : muxByte s s.group.toNat s.byte.toNat = some v) (hs : emitStep v s = .next t) : t.Inv := by
  have hd := h.busy_not_done (h.busy_eq_true (by simp [he]))
  rcases emitStep_cases hs with (⟨-, rfl⟩ | ⟨rest, -, rfl⟩) | ⟨rest, -, rfl⟩ | ⟨rest, -, rfl⟩
  · exact inv_offer h he hv s.sink
  · exact inv_offer h he hv rest
  · exact inv_muxAdvance (inv_withdraw h _ rest) he rfl
  · exact inv_raiseError (inv_withdraw h s.accepted rest) hd rfl .sink

/-! ## Every effect, every step, every run -/

theorem inv_effect (h : s.Inv) {i : Instr} (e : Effect s i t) : t.Inv := by
  cases e with
  | same => exact h
  | dropped _ => exact inv_dropWrite h
  | reset _ => exact inv_resetBlock h
  | command op hb => exact inv_checkedStart h hb op
  | illegal hb => exact inv_raiseError (inv_clearDone h) rfl (h.offered_eq_none (by simp [h.engine_eq_idle hb])) _
  | ifbLen n _ => exact inv_setIfbLen h n
  | afbLen n _ => exact inv_setAfbLen h n
  | ifbWrite k v _ hk => exact inv_setIfb h (Memory.write_wf v h.ifb_wf hk)
  | afbWrite k v hb hk => exact inv_setAfb h (by simp [h.engine_eq_idle hb]) (Memory.write_wf v h.afb_wf hk)
  | read v => exact inv_returnRead h v
  | draw _ => exact inv_returnDraw h
  | packed _ he hs => exact inv_packTriplet h he hs
  | emitted v he hv hs => exact inv_emitStep h he hv hs

theorem inv_step (h : s.Inv) (hs : step s = .next t) : t.Inv := by
  rcases step_effect hs with ⟨-, rest, rfl⟩ | ⟨i, rest, -, e⟩
  · exact inv_resetBlock (inv_setInputs h rest)
  · exact inv_effect (inv_setInputs h rest) e

/-- A predicate of the state that every step keeps holds along every run. -/
theorem Reaches.keeps {p : State → Prop} (hp : ∀ s t, p s → step s = .next t → p t) (h : Reaches s t) (hs : p s) :
    p t := by
  induction h with
  | refl => exact hs
  | tail _ hstep ih => exact hp _ _ ih hstep

theorem Launch.inv (h : Launch s) : s.Inv := by
  obtain ⟨inputs, sink, sync1, sync2, rfl⟩ := h
  exact
    { legal := by constructor <;> simp [State.reset]
      busy_not_done := nofun
      packer_inside := nofun
      mux_inside := nofun
      ifb_wf := Memory.nil_wf _
      pvb_wf := Memory.nil_wf _
      afb_wf := Memory.nil_wf _
      sync3_fixed := rfl
      offered_is_next := nofun }

/-- Settles O47: each effect of a step is one of the operations above. -/
theorem stepsKeepTheInvariant : Obligations.StepsKeepTheInvariant := fun _ _ h hs => inv_step h hs

/-- Settles O46: a launch state is the reset state but for its inputs, its sink and two ROM tables. -/
theorem launchStatesSatisfyTheInvariant : Obligations.LaunchStatesSatisfyTheInvariant := fun _ h => h.inv

/-- Settles O48: the invariant holds at launch and every step keeps it. -/
theorem reachableStatesAreLegal : Obligations.ReachableStatesAreLegal :=
  fun _ _ hl hr => (hr.keeps (fun _ _ h hs => inv_step h hs) hl.inv).legal

end Sys2Proof.Machine
end

section
/-! SUPPORT. What the next step is, what the micro-op of a position runs, and how the other accesses can end. -/

namespace Sys2Proof.Machine

variable {s : State} {i : Instr}

/-! ## What is fetched (42_commands.md R190) -/

/-- A descriptor is refused by name, or decodes to a host access (30_encoding.md R105). -/
theorem decodeBus_cases (d : BitVec 23) (data : Word) :
    decodeBus d data = .rejected .hostWidth ∨ decodeBus d data = .rejected .hostUnmapped ∨
      ∃ i, decodeBus d data = .ok i ∧ ∀ c, encode i ≠ .uop c := by
  unfold decodeBus
  dsimp only
  repeat' split
  all_goals simp [encode]

/-- A command word is illegal, or decodes to a command (30_encoding.md R101, R102). -/
theorem decodeCommand_cases (w : Word) :
    decodeCommand w = .rejected .illegalCommand ∨ ∃ i, decodeCommand w = .ok i ∧ ∀ c, encode i ≠ .uop c := by
  unfold decodeCommand
  repeat' split
  all_goals simp [encode]

theorem setInputs_nil (h : s.inputs = []) : { s with inputs := [] } = s := by rw [← h]

/-- Everything the next step can be: a reset, a refused access, or an instruction run with the input taken, which is the
micro-op the position names or a host access. -/
theorem fetch_cases (s : State) :
    (∃ rest, fetch s = .rst { s with inputs := rest }) ∨
    (fetch s = .refused .hostWidth ∨ fetch s = .refused .hostUnmapped) ∨
    ∃ i rest, fetch s = .instr i { s with inputs := rest } ∧
      (decodeUop (seqUop s) = .ok i ∨ ∀ c, encode i ≠ .uop c) := by
  obtain ⟨i, hi⟩ := decodeUop_seqUop s
  rcases hs : s.inputs with - | ⟨⟨d, data⟩ | w | - | -, rest⟩
  · exact .inr (.inr ⟨i, [], by simp [fetch, hs, fetchEncoded, decode, hi, setInputs_nil], .inl hi⟩)
  · rcases decodeBus_cases d data with h | h | ⟨j, h, hj⟩
    · exact .inr (.inl (.inl (by simp [fetch, hs, fetchEncoded, decode, h, rejectRefusal])))
    · exact .inr (.inl (.inr (by simp [fetch, hs, fetchEncoded, decode, h, rejectRefusal])))
    · exact .inr (.inr ⟨j, rest, by simp [fetch, hs, fetchEncoded, decode, h], .inr hj⟩)
  · rcases decodeCommand_cases w with h | ⟨j, h, hj⟩
    · exact .inr (.inr ⟨.regWr 0#6 w, rest, by simp [fetch, hs, fetchCommand, decode, h], .inr nofun⟩)
    · exact .inr (.inr ⟨j, rest, by simp [fetch, hs, fetchCommand, decode, h], .inr hj⟩)
  · exact .inr (.inr ⟨i, rest, by simp [fetch, hs, fetchEncoded, decode, hi], .inl hi⟩)
  · exact .inl ⟨rest, by simp [fetch, hs]⟩

theorem step_of_fetch_instr {u : State} (h : fetch s = .instr i u) : step s = exec i u := by simp [step, h]

/-- On the sequencer's turn the step is the micro-op of the position (10_state.md R46). -/
theorem step_of_turn {rest : List Input} (ht : (s.inputs = [] ∧ rest = []) ∨ s.inputs = .turn :: rest)
    (hi : decodeUop (seqUop s) = .ok i) : step s = exec i { s with inputs := rest } := by
  apply step_of_fetch_instr
  rcases ht with ⟨hs, rfl⟩ | hs
  · simp [fetch, hs, fetchEncoded, decode, hi, setInputs_nil]
  · simp [fetch, hs, fetchEncoded, decode, hi]

/-! ## The micro-op the position names -/

/-- The idle sequencer's micro-op is IDLE, which changes nothing (42_commands.md R201). -/
theorem exec_named_idle (hi : decodeUop (seqUop s) = .ok i) (he : s.engine = .idle) : exec i s = .next s := by
  have hu : seqUop s = 0x0#4 := by simp [seqUop, he]
  cases (show Decoded.ok .idle = .ok i by simpa [hu, decodeUop] using hi)
  simp [exec, execIdle, hu]

/-- The packer's micro-op packs the triplet of the position (40_pixel_packer.md R133). -/
theorem exec_named_pack (hi : decodeUop (seqUop s) = .ok i) (he : s.engine = .packer) :
    exec i s = packTriplet (if s.row.toNat % 2 = 0 then evenTriplet else oddTriplet) s := by
  rcases Nat.mod_two_eq_zero_or_one s.row.toNat with hr | hr
  · have hu : seqUop s = 0x1#4 := by simp [seqUop, he, lineEven_iff, hr]
    cases (show Decoded.ok .packEven = .ok i by simpa [hu, decodeUop] using hi)
    simp [exec, execPackEven, hu, hr]
  · have hu : seqUop s = 0x2#4 := by simp [seqUop, he, lineEven_iff, hr]
    cases (show Decoded.ok .packOdd = .ok i by simpa [hu, decodeUop] using hi)
    simp [exec, execPackOdd, hu, hr]

theorem muxByte_sync1 {g j : Nat} (hg : g < 24) (hj : j < 9) : muxByte s g j = some s.rom.sync1[j] := by
  simp [muxByte, hg, hj, hj.ne, show ¬ (1960 ≤ g ∨ 9 < j) by omega]

theorem muxByte_sync2 {g j : Nat} (hg : 24 ≤ g) (hg' : g < 36) (hj : j < 9) :
    muxByte s g j = some s.rom.sync2[g - 24][j] := by
  simp [muxByte, sync2At, hg', hj, hj.ne, show ¬ (1960 ≤ g ∨ 9 < j) by omega, Nat.not_lt.2 hg,
    show g - 24 < 12 by omega]

theorem muxByte_sync3 {g j : Nat} (hg : 36 ≤ g) (hg' : g < 40) (hj : j < 9) :
    muxByte s g j = some s.rom.sync3[j] := by
  simp [muxByte, hg', hj, hj.ne, show ¬ (1960 ≤ g ∨ 9 < j) by omega, show ¬ g < 24 by omega, Nat.not_lt.2 hg]

theorem muxByte_video {g j : Nat} (hg : 40 ≤ g) (hg' : g < 1960) (hj : j < 9) :
    muxByte s g j = s.pvb.read (videoOff g j) := by
  simp [muxByte, hj.ne, show ¬ (1960 ≤ g ∨ 9 < j) by omega, show ¬ g < 24 by omega, show ¬ g < 36 by omega,
    Nat.not_lt.2 hg]

theorem muxByte_audio {g : Nat} (hg : g < 1960) : muxByte s g 9 = s.afb.read g := by
  simp [muxByte, hg]

/-- A position with a byte is a position of the payload (41_frame_multiplexer.md R161). -/
theorem muxByte_inside {g j : Nat} {v : Byte} (h : muxByte s g j = some v) : g < 1960 ∧ j ≤ 9 := by
  unfold muxByte at h
  split at h
  · cases h
  · next hn => simpa using hn

/-- Past the nine bytes of its slice the ROM has none. -/
theorem sync2At_eq_none {rom : SyncRom} {r j : Nat} (hj : 9 ≤ j) : sync2At rom r j = none :=
  Option.eq_none_iff_forall_ne_some.2 fun _ h => absurd (sync2At_lt h) (by omega)

/-- The multiplexer's micro-op emits the byte of the position, `MuxByte(i, j)`, inside the payload, and stops outside it
(41_frame_multiplexer.md R161). -/
theorem exec_named_mux (hi : decodeUop (seqUop s) = .ok i) (he : s.engine = .multiplexer) :
    exec i s = if s.group.toNat < 1960 ∧ s.byte.toNat ≤ 9 then emitBuffer (muxByte s s.group.toNat s.byte.toNat) s
      else .fault .badPosition := by
  rcases seqUop_cases s with c | c | c | ⟨-, hb, hu⟩ | ⟨-, hb, hg, hu⟩ | ⟨-, hb, hg, hg', hu⟩ | ⟨-, hb, hg, hg', hu⟩ |
    ⟨-, hb, hg, hu⟩
  · exact absurd c.1 (by simp [he])
  · exact absurd c.1 (by simp [he])
  · exact absurd c.1 (by simp [he])
  · cases (show Decoded.ok .muxAudio = .ok i by simpa [hu, decodeUop] using hi)
    by_cases hin : s.group.toNat < 1960
    · simp [exec, execMuxAudio, hu, hb, hin, muxByte_audio]
    · simp [exec, execMuxAudio, hu, hin]
  · cases (show Decoded.ok .muxSync1 = .ok i by simpa [hu, decodeUop] using hi)
    by_cases hj : s.byte.toNat < 9
    · rw [if_pos (by omega), muxByte_sync1 hg hj]
      simp [exec, execMuxSync1, hu, hj, emitRom, emitBuffer]
    · rw [if_neg (by omega)]
      simp [exec, execMuxSync1, hu, hj, emitRom]
  · cases (show Decoded.ok .muxSync2 = .ok i by simpa [hu, decodeUop] using hi)
    by_cases hj : s.byte.toNat < 9
    · rw [if_pos (by omega), muxByte_sync2 hg hg' hj]
      simp [exec, execMuxSync2, hu, hj, sync2At, show s.group.toNat - 24 < 12 by omega, emitRom, emitBuffer]
    · rw [if_neg (by omega)]
      simp [exec, execMuxSync2, hu, sync2At_eq_none (Nat.not_lt.1 hj), emitRom]
  · cases (show Decoded.ok .muxSync3 = .ok i by simpa [hu, decodeUop] using hi)
    by_cases hj : s.byte.toNat < 9
    · rw [if_pos (by omega), muxByte_sync3 hg hg' hj]
      simp [exec, execMuxSync3, hu, hj, emitRom, emitBuffer]
    · rw [if_neg (by omega)]
      simp [exec, execMuxSync3, hu, hj, emitRom]
  · cases (show Decoded.ok .muxVideo = .ok i by simpa [hu, decodeUop] using hi)
    by_cases hin : s.group.toNat < 1960 ∧ s.byte.toNat < 9
    · rw [if_pos (by omega), muxByte_video hg hin.1 hin.2]
      simp [exec, execMuxVideo, hu, hin]
    · rw [if_neg (by omega)]
      simp [exec, execMuxVideo, hu, hin]

/-! ## How an instruction stops -/

theorem emitBuffer_stops {v : Option Byte} {r : Refusal} (h : emitBuffer v s = .refused r) : r = .sinkProtocol := by
  cases v with
  | none => cases h
  | some b =>
    simp only [emitBuffer, emitStep] at h
    split at h <;> cases h
    rfl

theorem emitBuffer_faults {v : Option Byte} {f : Fault} (h : emitBuffer v s = .fault f) : f = .unwrittenRead := by
  cases v with
  | none => cases h; rfl
  | some b => exact absurd h (emitStep_no_fault b s f)

theorem packTriplet_not_refused (order : Pixels → Triplet) (s : State) (r : Refusal) :
    packTriplet order s ≠ .refused r := by
  unfold packTriplet
  split
  · split <;> exact nofun
  · exact nofun

theorem packTriplet_faults {order : Pixels → Triplet} {f : Fault} (hr : s.row.toNat < 160) (ht : s.trip.toNat < 36)
    (h : packTriplet order s = .fault f) : f = .unwrittenRead := by
  rw [packTriplet, if_pos ⟨hr, ht⟩] at h
  split at h <;> cases h
  rfl

/-- A buffer byte read answers a next state or meets an unwritten byte (42_commands.md R194). -/
theorem bufferRead_outcome (v : Option Byte) (s : State) :
    (∃ t, bufferRead v s = .next t) ∨ bufferRead v s = .fault .unwrittenRead := by
  cases v with
  | none => exact .inr rfl
  | some b => exact .inl ⟨_, rfl⟩

/-- A command or a host access answers a next state, reads an unwritten byte, or is outside its buffer. -/
theorem hostAccess_outcome (hi : ∀ c, encode i ≠ .uop c) (s : State) :
    (∃ t, exec i s = .next t) ∨ exec i s = .fault .unwrittenRead ∨ exec i s = .refused .hostUnmapped := by
  cases i with
  | nop | pack | mux | encode | reset | regRd | regWr => exact .inl ⟨_, rfl⟩
  | idle | packEven | packOdd | muxSync1 | muxSync2 | muxSync3 | muxVideo | muxAudio => exact absurd rfl (hi _)
  | afbRd k | ifbRd k =>
    simp only [exec, execAfbRd, execIfbRd]
    split
    · exact (bufferRead_outcome _ s).imp_right .inl
    · exact .inr (.inr rfl)
  | pvbRd k =>
    simp only [exec, execPvbRd]
    split
    · split
      · exact .inl ⟨_, rfl⟩
      · exact (bufferRead_outcome _ s).imp_right .inl
    · exact .inr (.inr rfl)
  | afbWr k v | pvbWr k v | ifbWr k v =>
    simp only [exec, execAfbWr, execPvbWr, execIfbWr]
    split
    · exact .inl ⟨_, rfl⟩
    · exact .inr (.inr rfl)

/-- The micro-op the position names is a step of the block (42_commands.md R201). -/
theorem exec_named_ne_noSuchStep (hi : decodeUop (seqUop s) = .ok i) : exec i s ≠ .refused .noSuchStep := by
  intro h
  cases he : s.engine with
  | idle => rw [exec_named_idle hi he] at h; cases h
  | packer => rw [exec_named_pack hi he] at h; exact packTriplet_not_refused _ _ _ h
  | multiplexer =>
    rw [exec_named_mux hi he] at h
    split at h
    · cases emitBuffer_stops h
    · cases h

/-- Under the invariant the position is inside its frame or payload (10_state.md R56). -/
theorem exec_named_ne_badPosition (hs : s.Inv) (hi : decodeUop (seqUop s) = .ok i) :
    exec i s ≠ .fault .badPosition := by
  intro h
  cases he : s.engine with
  | idle => rw [exec_named_idle hi he] at h; cases h
  | packer =>
    rw [exec_named_pack hi he] at h
    cases packTriplet_faults (hs.packer_inside he) (Nat.lt_succ_of_le hs.legal.trip_le) h
  | multiplexer =>
    rw [exec_named_mux hi he, if_pos ⟨hs.mux_inside he, hs.legal.byte_le⟩] at h
    cases emitBuffer_faults h

/-- Every step runs the micro-op of the position, or answers a next state, or stops as a host access stops. -/
theorem step_outcome (s : State) :
    (∃ i rest, decodeUop (seqUop s) = .ok i ∧ step s = exec i { s with inputs := rest }) ∨
    (∃ t, step s = .next t) ∨ step s = .fault .unwrittenRead ∨
    step s = .refused .hostWidth ∨ step s = .refused .hostUnmapped := by
  rcases fetch_cases s with ⟨rest, hf⟩ | (hf | hf) | ⟨i, rest, hf, hi | hi⟩
  · simp [step, hf]
  · simp [step, hf]
  · simp [step, hf]
  · exact .inl ⟨i, rest, hi, step_of_fetch_instr hf⟩
  · rw [step_of_fetch_instr hf]
    rcases hostAccess_outcome hi { s with inputs := rest } with h | h | h
    · exact .inr (.inl h)
    · exact .inr (.inr (.inl h))
    · exact .inr (.inr (.inr (.inr h)))

/-- Settles O51: a step that is not the position's micro-op stops as a host access does, and that micro-op stops neither
way. -/
theorem positionsNeverLeaveTheSchedule : Obligations.PositionsNeverLeaveTheSchedule := by
  constructor
  · intro s hs
    rcases step_outcome s with ⟨i, rest, hi, h⟩ | ⟨t, h⟩ | h | h | h <;> rw [h]
    · exact exec_named_ne_badPosition (inv_setInputs hs rest) hi
    all_goals exact nofun
  · intro s
    rcases step_outcome s with ⟨i, rest, hi, h⟩ | ⟨t, h⟩ | h | h | h <;> rw [h]
    · exact exec_named_ne_noSuchStep (s := { s with inputs := rest }) hi
    all_goals exact nofun

/-- Settles O6: in each clause the position names the micro-op, which its turn runs. -/
theorem sequencerRunsTheNamedMicroOp : Obligations.SequencerRunsTheNamedMicroOp := by
  intro s rest ht
  dsimp only
  refine ⟨fun he => ?_, fun he hr => ?_, fun he hr => ?_, fun he hb => ?_, fun he hb hg => ?_, fun he hb hg hg' => ?_,
    fun he hb hg hg' => ?_, fun he hb hg => ?_⟩ <;> apply step_of_turn ht
  · simp [seqUop, he, decodeUop]
  · simp [seqUop, he, lineEven_iff, hr, decodeUop]
  · simp [seqUop, he, lineEven_iff, hr, decodeUop]
  · simp [seqUop, he, hb, decodeUop]
  · simp [seqUop, he, hb, hg, decodeUop]
  · simp [seqUop, he, hb, Nat.not_lt.2 hg, hg', decodeUop]
  · simp [seqUop, he, hb, Nat.not_lt.2 hg, hg', show ¬ s.group.toNat < 24 by omega, decodeUop]
  · simp [seqUop, he, hb, Nat.not_lt.2 hg, show ¬ s.group.toNat < 24 by omega, show ¬ s.group.toNat < 36 by omega,
      decodeUop]

end Sys2Proof.Machine
end

section
/-! SUPPORT. What the effects of a step keep: the ROM, the canonical form of the buffers, OVR and FRAMES. -/

namespace Sys2Proof.Machine

variable {s t : State} {i : Instr}

/-! ## Frames of the shared operations -/

/-- A checked command changes neither OVR nor FRAMES, no buffer, no ROM and nothing at the sink. -/
theorem checkedStart_keeps (op : CheckedOp) (s : State) :
    let t := checkedStart op (startOf op) s
    t.ovr = s.ovr ∧ t.frames = s.frames ∧ t.ifb = s.ifb ∧ t.pvb = s.pvb ∧ t.afb = s.afb ∧ t.rom = s.rom ∧
      t.accepted = s.accepted := by
  dsimp only
  rcases checkedStart_cases op (startOf op) s with ⟨-, h⟩ | ⟨code, -, h⟩ | ⟨-, h⟩ <;> rw [h]
  · cases op <;> simp [startOf]
  · simp
  · simp

/-- The packer's micro-op changes neither OVR nor FRAMES, no buffer but PVB, no ROM and nothing at the sink. -/
theorem packTriplet_keeps {order : Pixels → Triplet} (h : packTriplet order s = .next t) :
    t.ovr = s.ovr ∧ t.frames = s.frames ∧ t.ifb = s.ifb ∧ t.afb = s.afb ∧ t.rom = s.rom ∧
      t.accepted = s.accepted := by
  obtain ⟨-, -, p, -, rfl⟩ := packTriplet_cases h
  simp

/-- The emission step changes neither OVR nor the ROM, and no buffer. -/
theorem emitStep_keeps {v : Byte} (h : emitStep v s = .next t) :
    t.ovr = s.ovr ∧ t.ifb = s.ifb ∧ t.pvb = s.pvb ∧ t.afb = s.afb ∧ t.rom = s.rom := by
  rcases emitStep_cases h with (⟨-, rfl⟩ | ⟨rest, -, rfl⟩) | ⟨rest, -, rfl⟩ | ⟨rest, -, rfl⟩ <;> simp

/-! ## Resets -/

/-- A reset, from wherever it comes, is `resetBlock` of the state with the input taken (70_reset_and_hazards.md R260). -/
theorem step_of_resetsNext (hr : ResetsNext s) : ∃ rest, step s = .next (resetBlock { s with inputs := rest }) := by
  rcases fetch_cases s with ⟨rest, hf⟩ | (hf | hf) | ⟨i, rest, hf, -⟩
  · exact ⟨rest, by simp [step, hf]⟩
  · simp [ResetsNext, hf] at hr
  · simp [ResetsNext, hf] at hr
  · refine ⟨rest, ?_⟩
    simp only [ResetsNext, hf, Fetched.instr.injEq, reduceCtorEq, exists_false, false_or] at hr
    rw [step_of_fetch_instr hf]
    rcases hr with ⟨u, rfl, -⟩ | ⟨u, rfl, -⟩
    · rfl
    · simp [exec, execRegWr, registerWrite, storeRegister, commandWrite]

/-- A step that is no reset is an effect of an instruction that is none. -/
theorem step_effect_of_not_reset (hs : step s = .next t) (hn : ¬ ResetsNext s) :
    ∃ i rest, Effect { s with inputs := rest } i t ∧ ¬ (i = .reset ∨ i = .regWr 0#6 0x0000000F#32) := by
  rcases step_effect hs with ⟨hr, -⟩ | ⟨i, rest, hf, e⟩
  · exact absurd hr hn
  · refine ⟨i, rest, e, ?_⟩
    rintro (rfl | rfl)
    · exact hn (.inr (.inl ⟨_, hf⟩))
    · exact hn (.inr (.inr ⟨_, hf⟩))

/-! ## The ROM (10_state.md R52) -/

theorem effect_rom (e : Effect s i t) : t.rom = s.rom := by
  cases e with
  | command op _ =>
    obtain ⟨-, -, -, -, -, hrom, -⟩ := checkedStart_keeps op (clearDone s)
    exact hrom
  | packed _ _ hs =>
    obtain ⟨-, -, -, -, hrom, -⟩ := packTriplet_keeps hs
    exact hrom
  | emitted v _ _ hs =>
    obtain ⟨-, -, -, -, hrom⟩ := emitStep_keeps hs
    exact hrom
  | _ => rfl

/-- Settles O52: a reset keeps the ROM, and so does every effect. -/
theorem syncRomNeverChanges : Obligations.SyncRomNeverChanges := by
  intro s t hs
  rcases step_effect hs with ⟨-, rest, rfl⟩ | ⟨i, rest, -, e⟩
  · rfl
  · have hrom := effect_rom e
    exact hrom

/-! ## The buffers (10_state.md R48 to R51) -/

/-- Each of the three buffers in its canonical form. -/
def BuffersWf (s : State) : Prop := s.ifb.wf 207360 ∧ s.pvb.wf 17280 ∧ s.afb.wf 1960

theorem BuffersWf.of_eq (h : BuffersWf s) (hi : t.ifb = s.ifb) (hp : t.pvb = s.pvb) (ha : t.afb = s.afb) :
    BuffersWf t := by
  rwa [BuffersWf, hi, hp, ha]

theorem buffersWf_resetBlock (s : State) : BuffersWf (resetBlock s) :=
  ⟨Memory.nil_wf _, Memory.nil_wf _, Memory.nil_wf _⟩

theorem effect_buffersWf (h : BuffersWf s) (e : Effect s i t) : BuffersWf t := by
  obtain ⟨hifb, hpvb, hafb⟩ := h
  cases e with
  | command op _ =>
    obtain ⟨-, -, hi, hp, ha, -⟩ := checkedStart_keeps op (clearDone s)
    exact BuffersWf.of_eq ⟨hifb, hpvb, hafb⟩ hi hp ha
  | reset _ => exact buffersWf_resetBlock s
  | ifbWrite k v _ hk => exact ⟨Memory.write_wf v hifb hk, hpvb, hafb⟩
  | afbWrite k v _ hk => exact ⟨hifb, hpvb, Memory.write_wf v hafb hk⟩
  | packed _ _ hs =>
    obtain ⟨-, -, hi, ha, -⟩ := packTriplet_keeps hs
    exact ⟨hi ▸ hifb, packTriplet_pvb_wf hpvb hs, ha ▸ hafb⟩
  | emitted v _ _ hs =>
    obtain ⟨-, hi, hp, ha, -⟩ := emitStep_keeps hs
    exact BuffersWf.of_eq ⟨hifb, hpvb, hafb⟩ hi hp ha
  | _ => exact ⟨hifb, hpvb, hafb⟩

/-- Settles O49: a reset empties the buffers, and every effect keeps their form. -/
theorem stepsKeepTheBuffersCanonical : Obligations.StepsKeepTheBuffersCanonical := by
  intro s t hi hp ha hs
  rcases step_effect hs with ⟨-, rest, rfl⟩ | ⟨i, rest, -, e⟩
  · exact buffersWf_resetBlock _
  · exact effect_buffersWf (s := { s with inputs := rest }) ⟨hi, hp, ha⟩ e

/-! ## OVR (10_state.md R39) -/

/-- But for a reset, OVR is kept, or a write is dropped. -/
theorem effect_ovr (e : Effect s i t) (hn : ¬ (i = .reset ∨ i = .regWr 0#6 0x0000000F#32)) :
    t.ovr = s.ovr ∨ (s.busy = true ∧ t = dropWrite s) := by
  cases e with
  | dropped hb => exact .inr ⟨hb, rfl⟩
  | reset hi => exact absurd hi hn
  | command op _ =>
    obtain ⟨hovr, -⟩ := checkedStart_keeps op (clearDone s)
    exact .inl hovr
  | packed _ _ hs =>
    obtain ⟨hovr, -⟩ := packTriplet_keeps hs
    exact .inl hovr
  | emitted v _ _ hs =>
    obtain ⟨hovr, -⟩ := emitStep_keeps hs
    exact .inl hovr
  | _ => exact .inl rfl

/-- But for a reset, a step keeps OVR, or drops a write and changes nothing else. -/
theorem step_ovr (hs : step s = .next t) (hn : ¬ ResetsNext s) :
    t.ovr = s.ovr ∨ (s.busy = true ∧ t = { s with ovr := true, inputs := t.inputs }) := by
  obtain ⟨i, rest, e, hi⟩ := step_effect_of_not_reset hs hn
  rcases effect_ovr e hi with h | ⟨hb, rfl⟩
  · exact .inl h
  · exact .inr ⟨hb, rfl⟩

/-- Settles O29: a reset clears OVR, and any other step keeps it or drops a write. -/
theorem ovrLastsUntilReset : Obligations.OvrLastsUntilReset := by
  intro s t hs
  have hclear (hr : ResetsNext s) : t.ovr = false := by
    obtain ⟨rest, h⟩ := step_of_resetsNext hr
    cases hs.symm.trans h
    rfl
  refine ⟨hclear, fun hn ho => ?_, fun ho ht => ?_⟩
  · rcases step_ovr hs hn with h | ⟨-, h⟩
    · exact h.trans ho
    · rw [h]
  · have hn : ¬ ResetsNext s := fun hr => by simp [hclear hr] at ht
    exact (step_ovr hs hn).resolve_left (by simp [ho, ht])

/-! ## FRAMES (10_state.md R47) -/

/-- But for a reset, only the emission of the position's byte changes FRAMES or what the sink holds. -/
theorem effect_frames_accepted (e : Effect s i t) (hn : ¬ (i = .reset ∨ i = .regWr 0#6 0x0000000F#32)) :
    (t.frames = s.frames ∧ t.accepted = s.accepted) ∨
    ∃ v, s.engine = .multiplexer ∧ muxByte s s.group.toNat s.byte.toNat = some v ∧ emitStep v s = .next t := by
  cases e with
  | reset hi => exact absurd hi hn
  | command op _ =>
    obtain ⟨-, hf, -, -, -, -, ha⟩ := checkedStart_keeps op (clearDone s)
    exact .inl ⟨hf, ha⟩
  | packed _ _ hs =>
    obtain ⟨-, hf, -, -, -, ha⟩ := packTriplet_keeps hs
    exact .inl ⟨hf, ha⟩
  | emitted v he hv hs => exact .inr ⟨v, he, hv, hs⟩
  | _ => exact .inl ⟨rfl, rfl⟩

/-- The multiplexer's advance counts the payload when the position is its last byte (41_frame_multiplexer.md R169). -/
theorem muxAdvance_frames (hg : s.group.toNat < 1960) (hb : s.byte.toNat ≤ 9) :
    (muxAdvance s).frames = if s.group.toNat = 1959 ∧ s.byte.toNat = 9 then s.frames + 1#32 else s.frames := by
  rcases muxAdvance_cases hg with ⟨h, hs⟩ | ⟨-, h, hs⟩ | ⟨h9, h, hs⟩ <;> rw [hs]
  · rw [if_neg (by omega)]
  · rw [if_neg (by omega)]
  · rw [if_pos ⟨h, by omega⟩]
    rfl

theorem emitStep_frames {v : Byte} (hg : s.group.toNat < 1960) (hb : s.byte.toNat ≤ 9)
    (h : emitStep v s = .next t) :
    t.frames = if s.group.toNat = 1959 ∧ s.byte.toNat = 9 ∧ t.accepted ≠ s.accepted then s.frames + 1#32
      else s.frames := by
  rcases emitStep_cases h with (⟨-, rfl⟩ | ⟨rest, -, rfl⟩) | ⟨rest, -, rfl⟩ | ⟨rest, -, rfl⟩
  · simp
  · simp
  · rw [muxAdvance_frames (by exact hg) (by exact hb)]
    simp
  · simp

/-- Settles O54: but for a reset only an emission moves FRAMES, at the payload's last byte. -/
theorem framesCountsCompletedPayloads : Obligations.FramesCountsCompletedPayloads := by
  intro s t hs
  refine ⟨fun hr => ?_, fun hn => ?_⟩
  · obtain ⟨rest, h⟩ := step_of_resetsNext hr
    cases hs.symm.trans h
    rfl
  · obtain ⟨i, rest, e, hi⟩ := step_effect_of_not_reset hs hn
    rcases effect_frames_accepted e hi with ⟨hf, ha⟩ | ⟨v, he, hv, h⟩
    · simp [hf, ha]
    · obtain ⟨hg, hb⟩ := muxByte_inside hv
      rw [emitStep_frames hg hb h]
      simp [show s.engine = .multiplexer from he]

end Sys2Proof.Machine
end

section
/-! SUPPORT. The host's registers and buffer reads, and the state a reset leaves. -/

namespace Sys2Proof.Machine

/-! ## Register words (10_state.md R33 to R47) -/

/-- The reserved offsets read 0 (10_state.md R53). -/
theorem regWord_reserved (s : State) : ∀ {r : Nat}, 8 ≤ r → regWord s r = 0#32
  | _ + 8, _ => rfl

/-- The upper part of a word counts in units of `2 ^ m`. -/
theorem toNat_append_eq_add {n m : Nat} (x : BitVec n) (y : BitVec m) :
    (x ++ y).toNat = x.toNat * 2 ^ m + y.toNat := by
  rw [BitVec.toNat_append, ← Nat.shiftLeft_add_eq_or_of_lt y.isLt, Nat.shiftLeft_eq]

theorem getLsbD_eq_of_toNat {n k : Nat} {w : BitVec n} {b : Bool} (h : w.toNat / 2 ^ k % 2 = b.toNat) :
    w.getLsbD k = b := by
  rw [BitVec.getLsbD, Nat.testBit_eq_decide_div_mod_eq, h]
  cases b <;> rfl

theorem packPosWord_toNat (s : State) : (packPosWord s).toNat = s.row.toNat + 2 ^ 8 * s.trip.toNat := by
  simp only [packPosWord, toNat_append_eq_add, BitVec.toNat_ofNat]
  omega

theorem muxPosWord_toNat (s : State) : (muxPosWord s).toNat = s.group.toNat + 2 ^ 12 * s.byte.toNat := by
  simp only [muxPosWord, toNat_append_eq_add, BitVec.toNat_ofNat]
  omega

/-- STATUS as a number, by its fields (10_state.md R35). -/
theorem statusWord_toNat (s : State) :
    (statusWord s).toNat = s.busy.toNat + 2 * s.pvbValid.toNat + 4 * s.done.toNat + 8 * s.ovr.toNat +
      16 * (errCode s.err).toNat + 256 * (engineCode s.engine).toNat + 1024 * s.chain.toNat := by
  simp only [statusWord, toNat_append_eq_add, BitVec.toNat_ofNat, BitVec.toNat_ofBool]
  omega

/-- Settles O10: the word returned is `regWord`, read register by register. -/
theorem registerReadsReturnTheRegister : Obligations.RegisterReadsReturnTheRegister := by
  intro r s
  refine ⟨regWord s r.toNat, rfl, fun h => ?_, fun h => ?_, fun h => ?_, fun h => ?_, fun h => ?_, fun h => ?_,
    regWord_reserved s⟩ <;> rw [h]
  · rfl
  · simp [regWord, ifbLenWord]
    omega
  · simp [regWord, afbLenWord]
    omega
  · exact packPosWord_toNat s
  · exact muxPosWord_toNat s
  · rfl

/-- A write to a register other than CMD and the lengths has no effect but OVR while busy (10_state.md R53). -/
theorem registerWrite_ignored {r : Nat} (h0 : r ≠ 0) (h2 : r ≠ 2) (h3 : r ≠ 3) (w : Word) (s : State) :
    registerWrite r w s = if s.busy then dropWrite s else s := by
  simp [registerWrite, storeRegister, h0]

/-- Settles O11: each field is the number STATUS is, divided down to its lowest bit. -/
theorem statusHasItsFields : Obligations.StatusHasItsFields := by
  refine ⟨fun s => ⟨statusWord s, rfl, ?_⟩, fun s w hb => ?_, by decide⟩
  · have hw := statusWord_toNat s
    have hbusy := s.busy.toNat_le
    have hpvb := s.pvbValid.toNat_le
    have hdone := s.done.toNat_le
    have hovr := s.ovr.toNat_le
    have hchain := s.chain.toNat_le
    have herr := (errCode s.err).isLt
    have heng := (engineCode s.engine).isLt
    have ferr : (statusWord s).toNat / 2 ^ 4 % 2 ^ 4 = (errCode s.err).toNat := by omega
    have feng : (statusWord s).toNat / 2 ^ 8 % 2 ^ 2 = (engineCode s.engine).toNat := by omega
    refine ⟨getLsbD_eq_of_toNat ?_, getLsbD_eq_of_toNat ?_, getLsbD_eq_of_toNat ?_, getLsbD_eq_of_toNat ?_, ?_, ?_,
      getLsbD_eq_of_toNat ?_, ?_⟩
    · omega
    · omega
    · omega
    · omega
    · rw [ferr]
      cases s.err <;> rfl
    · rw [feng]
      cases s.engine <;> rfl
    · omega
    · omega
  · simp [exec, execRegWr, registerWrite_ignored, hb]

/-- Settles O12: SEQ holds the code of the position, which `seqUop_cases` lists. -/
theorem seqReadsTheNextMicroOp : Obligations.SeqReadsTheNextMicroOp := by
  refine ⟨fun s => ?_, by decide⟩
  change Host.Outcome.next (returnRead (.word (seqWord s)) s) = _
  unfold seqWord
  rcases seqUop_cases s with ⟨he, hu⟩ | ⟨he, hr, hu⟩ | ⟨he, hr, hu⟩ | ⟨he, hb, hu⟩ | ⟨he, hb, hg, hu⟩ |
    ⟨he, hb, hg, hg', hu⟩ | ⟨he, hb, hg, hg', hu⟩ | ⟨he, hb, hg, hu⟩
  · simp [returnRead, he, hu]
  · simp [returnRead, he, hr, hu]
  · simp [returnRead, he, hr, hu]
  · simp [returnRead, he, hb, hu]
  · simp [returnRead, he, hb, hg, hu]
  · simp [returnRead, he, hb, hg', hu, Nat.not_lt.2 hg]
  · simp [returnRead, he, hb, hg', hu, Nat.not_lt.2 hg, show ¬ s.group.toNat < 24 by omega]
  · simp [returnRead, he, hb, hu, Nat.not_lt.2 hg, show ¬ s.group.toNat < 24 by omega,
      show ¬ s.group.toNat < 36 by omega]

/-- Settles O13: the store takes the low bits of the word. -/
theorem lengthWritesKeepTheLowBits : Obligations.LengthWritesKeepTheLowBits := by
  intro s w hb
  refine ⟨⟨w.extractLsb' 0 18, ?_, ?_⟩, ⟨w.extractLsb' 0 11, ?_, ?_⟩⟩
  · simp
  · simp [exec, execRegWr, registerWrite, hb, storeRegister]
  · simp
  · simp [exec, execRegWr, registerWrite, hb, storeRegister]

/-- Settles O14: `regWord` and `registerWrite` at a register that holds nothing the host may store. -/
theorem reservedAndReadOnlyRegistersIgnoreWrites : Obligations.ReservedAndReadOnlyRegistersIgnoreWrites := by
  refine ⟨fun r s hr => ?_, fun r w s h0 h2 h3 => ⟨fun hb => ?_, fun hb => ?_⟩⟩
  · simp only [exec, execRegRd, regWord_reserved s hr]
    rfl
  · simp [exec, execRegWr, registerWrite_ignored h0 h2 h3, hb]
  · simp [exec, execRegWr, registerWrite_ignored h0 h2 h3, hb, dropWrite]

/-- Settles O17: each read by its buffer, its mark and, of PVB, the engine. -/
theorem bufferReadsReturnTheByte : Obligations.BufferReadsReturnTheByte := by
  intro s
  refine ⟨fun k b hk h => ?_, fun k b hk h => ?_, fun k b hk he h => ?_, fun k hk he => ⟨Config.pvbDraw s.draws, ?_⟩,
    fun k hk h => ?_, fun k hk h => ?_, fun k hk he h => ?_⟩
  · simp [exec, execIfbRd, hk, h, bufferRead, returnRead]
  · simp [exec, execAfbRd, hk, h, bufferRead, returnRead]
  · simp [exec, execPvbRd, hk, he, h, bufferRead, returnRead]
  · simp [exec, execPvbRd, hk, he, returnDraw]
  · simp [exec, execIfbRd, hk, h, bufferRead]
  · simp [exec, execAfbRd, hk, h, bufferRead]
  · simp [exec, execPvbRd, hk, he, h, bufferRead]

/-! ## Reset (70_reset_and_hazards.md R260) -/

theorem regWord_resetBlock (s : State) (r : Nat) : regWord (resetBlock s) r = 0#32 := by
  change regWord State.reset r = 0#32
  rcases Nat.lt_or_ge r 8 with hr | hr
  · exact (by decide : ∀ r < 8, regWord State.reset r = 0#32) r hr
  · exact regWord_reserved _ hr

/-- An idle block with no input left steps to itself. -/
theorem step_of_idle {s : State} (he : s.engine = .idle) (hi : s.inputs = []) : step s = .next s := by
  have hu : decodeUop (seqUop s) = .ok .idle := by simp [seqUop, he, decodeUop]
  rw [step_of_turn (.inl ⟨hi, rfl⟩) hu, setInputs_nil hi]
  exact exec_named_idle hu he

/-- Settles O7: either reset leaves `resetBlock` of the state, whose registers are those of `State.reset`. -/
theorem resetLeavesTheResetState : Obligations.ResetLeavesTheResetState := by
  intro s t h
  have ht : ∃ rest, t = resetBlock { s with inputs := rest } := by
    rcases h with h | ⟨rest, hi, h⟩
    · cases h
      exact ⟨s.inputs, rfl⟩
    · simp only [step, fetch, hi] at h
      cases h
      exact ⟨rest, rfl⟩
  obtain ⟨rest, rfl⟩ := ht
  exact ⟨fun r _ => regWord_resetBlock _ r, fun a => ⟨rfl, rfl, rfl⟩, rfl, rfl, rfl, rfl, step_of_idle rfl⟩

end Sys2Proof.Machine
end

section
/-! SUPPORT. Which bus descriptors have a meaning (30_encoding.md R105), and what a host read and a reset leave. -/

namespace Sys2Proof

/-! ## Bus descriptors (30_encoding.md R105) -/

/-- `a` lies in the AFB, the PVB or the IFB window (20_memory.md R75). -/
def InBufferWindow (a : Nat) : Prop :=
  (0x10000 ≤ a ∧ a ≤ 0x107A7) ∨ (0x20000 ≤ a ∧ a ≤ 0x2437F) ∨ (0x40000 ≤ a ∧ a ≤ 0x729FF)

section Descriptor

variable {wr : Bool} {size : BitVec 2} {a : Nat} {data : Word}

/-- SIZE 1 and 3 are refused at every address (log 11). -/
theorem decodeBus_oddSize (ha : a < 2 ^ 20) (hs : size = 1#2 ∨ size = 3#2) :
    decodeBus (busDescriptor wr size a) data = .rejected .hostWidth := by
  simp only [decodeBus, busSize_busDescriptor wr size ha, if_pos hs]

/-- The register window takes aligned words, and no other width or alignment (20_memory.md R76, R78). -/
theorem decodeBus_register (ha : a < 0x100) (hs : size = 0#2 ∨ size = 2#2) :
    ((∃ i, decodeBus (busDescriptor wr size a) data = .ok i) ∧ size = 2#2 ∧ a % 4 = 0) ∨
    (decodeBus (busDescriptor wr size a) data = .rejected .hostWidth ∧ (size = 0#2 ∨ a % 4 ≠ 0)) := by
  have ha' : a < 2 ^ 20 := by omega
  simp only [decodeBus, busAddr_busDescriptor wr size ha', busSize_busDescriptor wr size ha',
    busWr_busDescriptor wr size ha']
  rcases hs with rfl | rfl
  · right; simp [ha]
  · by_cases h4 : a % 4 = 0
    · left; cases wr <;> simp [ha, h4]
    · right; simp [ha, h4]

/-- The buffer windows take bytes only (20_memory.md R78). -/
theorem decodeBus_buffer (ha : InBufferWindow a) (hs : size = 0#2 ∨ size = 2#2) :
    ((∃ i, decodeBus (busDescriptor wr size a) data = .ok i) ∧ size = 0#2) ∨
    (decodeBus (busDescriptor wr size a) data = .rejected .hostWidth ∧ size = 2#2) := by
  unfold InBufferWindow at ha
  have ha' : a < 2 ^ 20 := by omega
  simp only [decodeBus, busAddr_busDescriptor wr size ha', busSize_busDescriptor wr size ha',
    busWr_busDescriptor wr size ha', Config.regBytes, Config.afbBase, Config.afbBytes, Config.pvbBase,
    Config.pvbBytes, Config.ifbBase, Config.ifbBytes, if_neg (show ¬ a < 0x100 by omega)]
  rcases hs with rfl | rfl
  · refine .inl ⟨?_, rfl⟩
    rcases ha with h | h | h <;> cases wr <;> simp (disch := omega) [if_pos, if_neg]
  · refine .inr ⟨?_, rfl⟩
    rcases ha with h | h | h <;> simp (disch := omega) [if_pos]

/-- Bytes and words outside every window are unmapped (20_memory.md R76; log 11). -/
theorem decodeBus_unmapped (ha : a < 2 ^ 20) (hr : ¬ a < 0x100) (hb : ¬ InBufferWindow a)
    (hs : size = 0#2 ∨ size = 2#2) : decodeBus (busDescriptor wr size a) data = .rejected .hostUnmapped := by
  unfold InBufferWindow at hb
  simp only [decodeBus, busAddr_busDescriptor wr size ha, busSize_busDescriptor wr size ha, Config.regBytes,
    Config.afbBase, Config.afbBytes, Config.pvbBase, Config.pvbBytes, Config.ifbBase, Config.ifbBytes]
  rw [if_neg (by rcases hs with rfl | rfl <;> decide), if_neg hr, if_neg (by omega), if_neg (by omega),
    if_neg (by omega)]

/-- The three answers, each with exactly its descriptors: the lemmas above cover every descriptor, and their conditions
exclude each other. -/
theorem decodeBus_answers (ha : a < 2 ^ 20) :
    ((∃ i, decodeBus (busDescriptor wr size a) data = .ok i) ↔
      (a < 0x100 ∧ size = 2#2 ∧ a % 4 = 0) ∨ (InBufferWindow a ∧ size = 0#2)) ∧
    (decodeBus (busDescriptor wr size a) data = .rejected .hostUnmapped ↔
      ¬ a < 0x100 ∧ ¬ InBufferWindow a ∧ size ≠ 1#2 ∧ size ≠ 3#2) ∧
    (decodeBus (busDescriptor wr size a) data = .rejected .hostWidth ↔
      size = 1#2 ∨ size = 3#2 ∨ (a < 0x100 ∧ (size = 0#2 ∨ a % 4 ≠ 0)) ∨ (InBufferWindow a ∧ size = 2#2)) := by
  have hsize : (size = 1#2 ∨ size = 3#2) ∨ size = 0#2 ∨ size = 2#2 := by bv_omega
  have hdisj : a < 0x100 → ¬ InBufferWindow a := by unfold InBufferWindow; omega
  rcases hsize with hs | hs
  · rw [decodeBus_oddSize ha hs]
    rcases hs with rfl | rfl <;> simp
  · by_cases hr : a < 0x100
    · rcases decodeBus_register (wr := wr) (data := data) hr hs with ⟨⟨i, h⟩, rfl, h4⟩ | ⟨h, hc⟩ <;> rw [h]
      · simp [hr, hdisj hr, h4]
      · rcases hs with rfl | rfl
        · simp [hr, hdisj hr]
        · simpa [hr, hdisj hr] using hc
    · by_cases hb : InBufferWindow a
      · rcases decodeBus_buffer (wr := wr) (data := data) hb hs with ⟨⟨i, h⟩, rfl⟩ | ⟨h, rfl⟩ <;> simp [h, hr, hb]
      · rw [decodeBus_unmapped ha hr hb hs]
        rcases hs with rfl | rfl <;> simp [hr, hb]

end Descriptor

/-- Settles O4: SIZE 1 and 3 first, then by the window of the address. -/
theorem busDescriptorsRefused : Obligations.BusDescriptorsRefused := fun _ _ _ _ ha => decodeBus_answers ha

end Sys2Proof

namespace Sys2Proof.Machine

variable {s t : State}

/-! ## Reset (42_commands.md R200) and host reads (20_memory.md R79) -/

/-- Settles O8: RESET, the word `0xF` written to CMD and `rst_n` are all `resetBlock`. -/
theorem resetAlwaysRuns : Obligations.ResetAlwaysRuns := by
  intro s
  refine ⟨⟨_, rfl, rfl⟩, ?_, fun rest hi => ?_⟩
  · simp [exec, execRegWr, registerWrite, storeRegister, commandWrite, execReset]
  · simp [step, fetch, hi, exec, execReset]

/-- A buffer read that answers a next state appends one value to the record of reads and changes nothing else. -/
theorem bufferRead_frame {v : Option Byte} (h : bufferRead v s = .next t) :
    t = { s with reads := t.reads, draws := t.draws } ∧ ∃ w, t.reads = s.reads ++ [w] := by
  obtain ⟨b, -, rfl⟩ := bufferRead_cases h
  exact ⟨rfl, _, rfl⟩

/-- Settles O18: a read that answers appends the value it returns. -/
theorem hostReadsHaveNoSideEffect : Obligations.HostReadsHaveNoSideEffect := by
  intro i s t hi h
  rcases hi with ⟨r, rfl⟩ | ⟨k, rfl⟩ | ⟨k, rfl⟩ | ⟨k, rfl⟩
  · cases h
    exact ⟨rfl, _, rfl⟩
  · simp only [exec, execAfbRd] at h
    split at h <;> [exact bufferRead_frame h; cases h]
  · simp only [exec, execPvbRd] at h
    split at h <;> [skip; cases h]
    split at h
    · cases h
      exact ⟨rfl, _, rfl⟩
    · exact bufferRead_frame h
  · simp only [exec, execIfbRd] at h
    split at h <;> [exact bufferRead_frame h; cases h]

end Sys2Proof.Machine
end

section
/-! SUPPORT. The frames of the micro-ops, what a busy block does, and the prefix of the payload that the sink holds. -/

namespace Sys2Proof.Machine

variable {s t : State} {i : Instr}

/-! ## Frames of the micro-ops (20_memory.md R85) -/

/-- Settles O34: a triplet is three stores to PVB and an advance. -/
theorem packMicroOpsKeepTheRest : Obligations.PackMicroOpsKeepTheRest := by
  intro i s t hi h
  obtain ⟨-, hp⟩ := pack_packs hi h
  obtain ⟨-, -, p, -, rfl⟩ := packTriplet_cases hp
  refine ⟨by simp, fun a ha => ?_, by simp⟩
  rw [packAdvance_pvb, read_writeTriplet, if_neg (by omega), if_neg (by omega), if_neg (by omega)]

/-- The multiplexer's micro-op at a position with a byte is the emission step of that byte (41_frame_multiplexer.md
R167). -/
theorem exec_named_mux_eq_emitStep {v : Byte} (hi : decodeUop (seqUop s) = .ok i) (he : s.engine = .multiplexer)
    (hv : muxByte s s.group.toNat s.byte.toNat = some v) : exec i s = emitStep v s := by
  rw [exec_named_mux hi he, if_pos (muxByte_inside hv), hv]
  rfl

/-- Settles O39: the emission step for each head of the list `sink`. -/
theorem emissionFollowsTheSinksAnswer : Obligations.EmissionFollowsTheSinksAnswer := by
  intro i s v hi he hv
  rw [exec_named_mux_eq_emitStep hi he hv]
  refine ⟨fun h => ?_, fun rest h => ?_, fun rest h => ?_, fun rest h => ?_, fun rest h => ?_⟩ <;>
    simp [emitStep, h, raiseError]

/-- Settles O41: a MUX micro-op is an emission step, whatever the sink answers. -/
theorem muxMicroOpsKeepTheRest : Obligations.MuxMicroOpsKeepTheRest := by
  intro i s t hi h
  obtain ⟨-, v, -, hs⟩ := mux_emits hi h
  rcases emitStep_cases hs with (⟨-, rfl⟩ | ⟨rest, -, rfl⟩) | ⟨rest, -, rfl⟩ | ⟨rest, -, rfl⟩ <;> simp

/-! ## A busy block (20_memory.md R85, R91) -/

/-- But for a reset, what a busy block does is a micro-op, or moves nothing but OVR and the record of reads
(42_commands.md R202). -/
theorem effect_of_busy (e : Effect s i t) (hb : s.busy = true) (hn : ¬ (i = .reset ∨ i = .regWr 0#6 0x0000000F#32)) :
    t = { s with ovr := t.ovr, reads := t.reads, draws := t.draws } ∨
    (∃ order, s.engine = .packer ∧ packTriplet order s = .next t) ∨
    ∃ v, s.engine = .multiplexer ∧ muxByte s s.group.toNat s.byte.toNat = some v ∧ emitStep v s = .next t := by
  cases e with
  | same | dropped | read | draw => exact .inl rfl
  | reset hi => exact absurd hi hn
  | command _ h | illegal h | ifbLen _ h | afbLen _ h | ifbWrite _ _ h | afbWrite _ _ h =>
    exact absurd (hb.symm.trans h) nofun
  | packed _ he hs => exact .inr (.inl ⟨_, he, hs⟩)
  | emitted v he hv hs => exact .inr (.inr ⟨v, he, hv, hs⟩)

/-- The emission step keeps AFB_LEN, or completes the payload and counts it (41_frame_multiplexer.md R169). -/
theorem emitStep_afbLen {v : Byte} (hg : s.group.toNat < 1960) (h : emitStep v s = .next t) :
    t.afbLen = s.afbLen ∨ t.frames = s.frames + 1#32 := by
  rcases emitStep_cases h with (⟨-, rfl⟩ | ⟨rest, -, rfl⟩) | ⟨rest, -, rfl⟩ | ⟨rest, -, rfl⟩
  · exact .inl rfl
  · exact .inl rfl
  · rcases muxAdvance_cases (s := { s with offered := none, accepted := s.accepted ++ [v], sink := rest }) hg with
      ⟨-, hs⟩ | ⟨-, -, hs⟩ | ⟨-, -, hs⟩ <;> rw [hs]
    · exact .inl rfl
    · exact .inl rfl
    · exact .inr rfl
  · exact .inl rfl

/-- Settles O53: a busy block packs, which stores to PVB only, or emits, which stores to no buffer. -/
theorem engineInputsAreFrozenWhileBusy : Obligations.EngineInputsAreFrozenWhileBusy := by
  intro s t hb hs hn
  obtain ⟨i, rest, e, hi⟩ := step_effect_of_not_reset hs hn
  rcases effect_of_busy e hb hi with h | ⟨order, he, h⟩ | ⟨v, he, hv, h⟩
  · rw [h]
    exact ⟨rfl, rfl, .inl rfl, fun _ => rfl⟩
  · obtain ⟨-, -, hifb, hafb, -⟩ := packTriplet_keeps h
    obtain ⟨-, -, p, -, rfl⟩ := packTriplet_cases h
    exact ⟨hifb, hafb, .inl (packAdvance_afbLen _), fun hne => absurd he hne⟩
  · obtain ⟨-, hifb, hpvb, hafb, -⟩ := emitStep_keeps h
    exact ⟨hifb, hafb, emitStep_afbLen (s := { s with inputs := rest }) (muxByte_inside hv).1 h, fun _ => hpvb⟩

/-! ## What the sink receives (20_memory.md R83, R96) -/

/-- The emission step gives the sink its byte or nothing (41_frame_multiplexer.md R167). -/
theorem emitStep_accepted {v : Byte} (h : emitStep v s = .next t) :
    t.accepted = s.accepted ∨ t.accepted = s.accepted ++ [v] := by
  rcases emitStep_cases h with (⟨-, rfl⟩ | ⟨rest, -, rfl⟩) | ⟨rest, -, rfl⟩ | ⟨rest, -, rfl⟩ <;> simp

/-- A reset takes no byte back from the sink (41_frame_multiplexer.md R173). -/
theorem accepted_of_resetsNext (hr : ResetsNext s) (hs : step s = .next t) : t.accepted = s.accepted := by
  obtain ⟨rest, h⟩ := step_of_resetsNext hr
  cases hs.symm.trans h
  rfl

/-- Settles O55: only an emission gives the sink a byte, and a reset takes none back. -/
theorem sinkReceivesOnlyTheNextByte : Obligations.SinkReceivesOnlyTheNextByte := by
  intro s t hs
  by_cases hr : ResetsNext s
  · exact .inl (accepted_of_resetsNext hr hs)
  · obtain ⟨i, rest, e, hi⟩ := step_effect_of_not_reset hs hr
    rcases effect_frames_accepted e hi with ⟨-, ha⟩ | ⟨v, he, hv, h⟩
    · exact .inl ha
    · exact (emitStep_accepted h).imp_right fun ha => ⟨v, ha, he, hv⟩

/-! ## The payload prefix (41_frame_multiplexer.md R170, R173) -/

/-- The byte of a position depends on AFB, PVB and the ROM only (41_frame_multiplexer.md R161). -/
theorem muxByte_congr (ha : t.afb = s.afb) (hp : t.pvb = s.pvb) (hr : t.rom = s.rom) (g j : Nat) :
    muxByte t g j = muxByte s g j := by
  simp only [muxByte, ha, hp, hr]

theorem payloadByte_congr (ha : t.afb = s.afb) (hp : t.pvb = s.pvb) (hr : t.rom = s.rom) (p : Nat) :
    payloadByte t p = payloadByte s p :=
  muxByte_congr ha hp hr _ _

/-- The payload offset of a position (41_frame_multiplexer.md R170). -/
theorem payloadByte_position {g j : Nat} (hj : j ≤ 9) : payloadByte s (10 * g + j) = muxByte s g j := by
  rw [payloadByte, show (10 * g + j) / 10 = g by omega, show (10 * g + j) % 10 = j by omega]

section Prefix

variable {base : List Byte} {n : Nat}

/-- A state with the same buffers, ROM and sink has the same prefix. -/
theorem PayloadPrefix.congr (h : PayloadPrefix base s n) (hc : t.accepted = s.accepted) (ha : t.afb = s.afb)
    (hp : t.pvb = s.pvb) (hr : t.rom = s.rom) : PayloadPrefix base t n := by
  obtain ⟨l, hl, hn, hb⟩ := h
  refine ⟨l, hc.trans hl, hn, fun p hlt => ?_⟩
  rw [payloadByte_congr ha hp hr]
  exact hb p hlt

/-- The next payload byte makes the prefix one longer. -/
theorem PayloadPrefix.snoc (h : PayloadPrefix base s n) {v : Byte} (hv : payloadByte s n = some v)
    (hc : t.accepted = s.accepted ++ [v]) (ha : t.afb = s.afb) (hp : t.pvb = s.pvb) (hr : t.rom = s.rom) :
    PayloadPrefix base t (n + 1) := by
  obtain ⟨l, hl, rfl, hb⟩ := h
  refine ⟨l ++ [v], by rw [hc, hl, List.append_assoc], by simp, fun p hlt => ?_⟩
  rw [payloadByte_congr ha hp hr]
  rcases Nat.lt_succ_iff_lt_or_eq.1 hlt with h | rfl
  · obtain ⟨w, hw, hpw⟩ := hb p h
    exact ⟨w, by rw [List.getElem?_append_left h, hw], hpw⟩
  · exact ⟨v, by simp, hv⟩

end Prefix

/-- The advance moves the position to the next payload offset, and stops the engine only at the end of the payload
(41_frame_multiplexer.md R168, R169). -/
theorem muxAdvance_position (hg : s.group.toNat < 1960) (hj : s.byte.toNat ≤ 9) :
    let t := muxAdvance s
    10 * t.group.toNat + t.byte.toNat = 10 * s.group.toNat + s.byte.toNat + 1 ∧
      (t.engine = s.engine ∨
        (t.engine = .idle ∧ t.done = true ∧ 10 * t.group.toNat + t.byte.toNat = 19600)) := by
  dsimp only
  rcases muxAdvance_cases hg with ⟨h, hs⟩ | ⟨h9, h, hs⟩ | ⟨h9, h, hs⟩ <;> rw [hs]
  · exact ⟨by bv_omega, .inl rfl⟩
  · exact ⟨by bv_omega, .inl rfl⟩
  · refine ⟨?_, .inr ⟨rfl, rfl, ?_⟩⟩ <;> simp only [muxComplete] <;> bv_omega

/-- How a step may leave the multiplexer of `s`: still running, stopped at its position by the sink, or done with the
whole payload (41_frame_multiplexer.md R168, R169; 60_exceptions.md R227). -/
def MuxRunsOrStops (s t : State) : Prop :=
  t.engine = .multiplexer ∨
  (t.engine = .idle ∧ t.err = .sink ∧ t.group = s.group ∧ t.byte = s.byte) ∨
  (t.engine = .idle ∧ t.done = true ∧ 10 * t.group.toNat + t.byte.toNat = 19600)

/-- The emission step keeps the sink holding the payload bytes before the position: an accepted byte is the next one,
and only it moves the position. -/
theorem emitStep_keeps_prefix {base : List Byte} {v : Byte} (hn : s.err = .none) (he : s.engine = .multiplexer)
    (hv : muxByte s s.group.toNat s.byte.toNat = some v)
    (hp : PayloadPrefix base s (10 * s.group.toNat + s.byte.toNat)) (h : emitStep v s = .next t) :
    PayloadPrefix base t (10 * t.group.toNat + t.byte.toNat) ∧ MuxRunsOrStops s t := by
  obtain ⟨hg, hj⟩ := muxByte_inside hv
  rcases emitStep_cases h with (⟨-, rfl⟩ | ⟨rest, -, rfl⟩) | ⟨rest, -, rfl⟩ | ⟨rest, -, rfl⟩
  · exact ⟨hp.congr rfl rfl rfl rfl, .inl he⟩
  · exact ⟨hp.congr rfl rfl rfl rfl, .inl he⟩
  · obtain ⟨hpos, hend⟩ :=
      muxAdvance_position (s := { s with offered := none, accepted := s.accepted ++ [v], sink := rest }) hg hj
    refine ⟨?_, hend.imp (·.trans he) .inr⟩
    rw [hpos]
    exact hp.snoc ((payloadByte_position hj).trans hv) (by simp) (by simp) (by simp) (by simp)
  · exact ⟨hp.congr rfl rfl rfl rfl, .inr (.inl ⟨rfl, by simp [hn], rfl, rfl⟩)⟩

/-- Settles O42: a busy block that does not emit keeps sink, position and payload, and an emission keeps the prefix. -/
theorem sinkHoldsThePayloadPrefix : Obligations.SinkHoldsThePayloadPrefix := by
  intro base s t hinv he hp hs
  refine ⟨fun hr => accepted_of_resetsNext hr hs, fun hr => ?_⟩
  obtain ⟨i, rest, e, hi⟩ := step_effect_of_not_reset hs hr
  have hb := hinv.busy_eq_true (by simp [he])
  rcases effect_of_busy e hb hi with h | ⟨order, hpack, -⟩ | ⟨v, -, hv, h⟩
  · rw [h]
    exact ⟨hp.congr rfl rfl rfl rfl, .inl he⟩
  · exact absurd (he.symm.trans hpack) nofun
  · exact emitStep_keeps_prefix (s := { s with inputs := rest }) (hinv.err_eq_none hb) he hv hp h

end Sys2Proof.Machine
end

section
/-! SUPPORT. Decoder against encoder for the three encodings (30_encoding.md R101, R103, R105), and the illegal command
words (R102). -/

namespace Sys2Proof

/-! ## Bus transactions (30_encoding.md R105) -/

/-- A descriptor is put together again from its three fields. -/
theorem busDescriptor_fields (d : BitVec 23) : busDescriptor (busWr d) (busSize d) (busAddr d) = d := by
  have ha : busAddr d < 2 ^ 20 := BitVec.isLt _
  have hw : (busWr d).toNat = d.toNat / 2 ^ 22 % 2 := by rw [busWr, BitVec.getLsbD, Nat.toNat_testBit]
  apply BitVec.eq_of_toNat_eq
  rw [busDescriptor_toNat _ _ ha, hw]
  simp only [busSize, busAddr, BitVec.extractLsb'_toNat, Nat.shiftRight_eq_div_pow]
  omega

section Descriptor

variable {wr : Bool} {data : Word}

theorem decodeBus_registerAccess (r : BitVec 6) :
    decodeBus (busDescriptor wr 2#2 (4 * r.toNat)) data = .ok (bif wr then .regWr r data else .regRd r) := by
  cases wr <;>
    simp (disch := omega) [decodeBus, busAddr_busDescriptor, busSize_busDescriptor, busWr_busDescriptor, if_pos]

theorem decodeBus_afbAccess {k : BitVec 11} (hk : k.toNat < 1960) :
    decodeBus (busDescriptor wr 0#2 (0x10000 + k.toNat)) data =
      .ok (bif wr then .afbWr k (dataByte data) else .afbRd k) := by
  cases wr <;>
    simp (disch := omega) [decodeBus, busAddr_busDescriptor, busSize_busDescriptor, busWr_busDescriptor, if_pos, if_neg]

theorem decodeBus_pvbAccess {k : BitVec 15} (hk : k.toNat < 17280) :
    decodeBus (busDescriptor wr 0#2 (0x20000 + k.toNat)) data =
      .ok (bif wr then .pvbWr k (dataByte data) else .pvbRd k) := by
  cases wr <;>
    simp (disch := omega) [decodeBus, busAddr_busDescriptor, busSize_busDescriptor, busWr_busDescriptor, if_pos, if_neg]

theorem decodeBus_ifbAccess {k : BitVec 18} (hk : k.toNat < 207360) :
    decodeBus (busDescriptor wr 0#2 (0x40000 + k.toNat)) data =
      .ok (bif wr then .ifbWr k (dataByte data) else .ifbRd k) := by
  cases wr <;>
    simp (disch := omega) [decodeBus, busAddr_busDescriptor, busSize_busDescriptor, busWr_busDescriptor, if_pos, if_neg]

end Descriptor

/-- An address inside a window is the window's base plus an offset that the operand field holds. -/
theorem exists_offset {n base size a : Nat} (hn : size ≤ 2 ^ n) (hl : base ≤ a) (hu : a < base + size) :
    ∃ k : BitVec n, k.toNat < size ∧ a = base + k.toNat := by
  have hk : (BitVec.ofNat n (a - base)).toNat = a - base := Nat.mod_eq_of_lt (by omega)
  exact ⟨BitVec.ofNat n (a - base), by omega, by omega⟩

/-- A descriptor that decodes is a word access to a register, or a byte access to a byte of a buffer. -/
theorem access_of_decodeBus_ok {wr : Bool} {size : BitVec 2} {a : Nat} {data : Word} {i : Instr} (ha : a < 2 ^ 20)
    (h : decodeBus (busDescriptor wr size a) data = .ok i) :
    (size = 2#2 ∧ ∃ r : BitVec 6, a = 4 * r.toNat) ∨
    (size = 0#2 ∧ ((∃ k : BitVec 11, k.toNat < 1960 ∧ a = 0x10000 + k.toNat) ∨
      (∃ k : BitVec 15, k.toNat < 17280 ∧ a = 0x20000 + k.toNat) ∨
      ∃ k : BitVec 18, k.toNat < 207360 ∧ a = 0x40000 + k.toNat)) := by
  rcases (decodeBus_answers ha).1.mp ⟨i, h⟩ with ⟨hr, hs, h4⟩ | ⟨hb, hs⟩
  · obtain ⟨r, -, hr4⟩ := exists_offset (n := 6) (size := 64) (a := a / 4) le_rfl (Nat.zero_le _) (by omega)
    exact .inl ⟨hs, r, by omega⟩
  · refine .inr ⟨hs, ?_⟩
    rcases hb with ⟨hl, hu⟩ | ⟨hl, hu⟩ | ⟨hl, hu⟩
    · exact .inl (exists_offset (by decide) hl (by omega))
    · exact .inr (.inl (exists_offset (by decide) hl (by omega)))
    · exact .inr (.inr (exists_offset (by decide) hl (by omega)))

theorem encode_of_decodeBus_ok {d : BitVec 23} {data : Word} {i : Instr} (h : decodeBus d data = .ok i) :
    i.wellFormed = true ∧ ∃ lanes, encode i = .bus d lanes := by
  have ha : busAddr d < 2 ^ 20 := BitVec.isLt _
  rw [← busDescriptor_fields d] at h ⊢
  generalize busWr d = wr, busSize d = size, busAddr d = a at h ha ⊢
  rcases access_of_decodeBus_ok ha h with ⟨rfl, r, rfl⟩ | ⟨rfl, ⟨k, hk, rfl⟩ | ⟨k, hk, rfl⟩ | ⟨k, hk, rfl⟩⟩
  · rw [decodeBus_registerAccess] at h
    cases wr <;> cases h <;> exact ⟨rfl, _, rfl⟩
  · rw [decodeBus_afbAccess hk] at h
    cases wr <;> cases h <;> exact ⟨decide_eq_true hk, _, rfl⟩
  · rw [decodeBus_pvbAccess hk] at h
    cases wr <;> cases h <;> exact ⟨decide_eq_true hk, _, rfl⟩
  · rw [decodeBus_ifbAccess hk] at h
    cases wr <;> cases h <;> exact ⟨decide_eq_true hk, _, rfl⟩

/-! ## Command words and micro-op codes (30_encoding.md R101 to R103) -/

theorem encode_of_decodeCommand_ok {w : Word} {i : Instr} (h : decodeCommand w = .ok i) :
    i.wellFormed = true ∧ encode i = .cmd w := by
  unfold decodeCommand at h
  repeat' split at h
  all_goals cases h
  all_goals exact ⟨rfl, congrArg Encoded.cmd (Eq.symm ‹_›)⟩

theorem encode_of_decodeUop_ok {c : BitVec 4} {i : Instr} (h : decodeUop c = .ok i) :
    i.wellFormed = true ∧ encode i = .uop c := by
  unfold decodeUop at h
  repeat' split at h
  all_goals cases h
  all_goals exact ⟨rfl, congrArg Encoded.uop (Eq.symm ‹_›)⟩

/-- `w` is one of the five command words (30_encoding.md R101). -/
def IsCommandWord (w : Word) : Prop := w = 0#32 ∨ w = 1#32 ∨ w = 2#32 ∨ w = 3#32 ∨ w = 0xF#32

theorem not_isCommandWord_iff_ne (w : Word) :
    ¬ IsCommandWord w ↔ w ≠ 0#32 ∧ w ≠ 1#32 ∧ w ≠ 2#32 ∧ w ≠ 3#32 ∧ w ≠ 0xF#32 := by
  simp only [IsCommandWord, not_or, ne_eq]

/-- The words outside R101 are those with OP 0x4 to 0xE or RSVD nonzero (30_encoding.md R102). -/
theorem not_isCommandWord_iff_fields (w : Word) :
    ¬ IsCommandWord w ↔ (4 ≤ w.toNat % 2 ^ 4 ∧ w.toNat % 2 ^ 4 ≤ 0xE) ∨ w.toNat / 2 ^ 4 ≠ 0 := by
  simp only [IsCommandWord, ← BitVec.toNat_inj, BitVec.toNat_ofNat]
  omega

theorem decodeCommand_ok_iff (w : Word) : (∃ i, decodeCommand w = .ok i) ↔ IsCommandWord w := by
  constructor
  · rintro ⟨i, h⟩
    by_contra hw
    obtain ⟨h0, h1, h2, h3, hF⟩ := (not_isCommandWord_iff_ne w).1 hw
    simp [decodeCommand, h0, h1, h2, h3, hF] at h
  · rintro (rfl | rfl | rfl | rfl | rfl) <;> exact ⟨_, rfl⟩

theorem decodeCommand_illegal_iff (w : Word) :
    decodeCommand w = .rejected .illegalCommand ↔ ¬ IsCommandWord w := by
  rw [← decodeCommand_ok_iff]
  rcases Machine.decodeCommand_cases w with h | ⟨i, h, -⟩ <;> simp [h]

/-! ## The round trips -/

/-- Settles O1: command words and micro-op codes by evaluation, bus transactions by the window of their descriptor. -/
theorem decodeInvertsEncode : Obligations.DecodeInvertsEncode := by
  intro i hi
  cases i with
  | nop | pack | mux | encode | reset => rfl
  | idle | packEven | packOdd | muxSync1 | muxSync2 | muxSync3 | muxVideo | muxAudio => rfl
  | regRd r | regWr r w => exact decodeBus_registerAccess r
  | afbRd k => exact decodeBus_afbAccess (of_decide_eq_true hi)
  | pvbRd k => exact decodeBus_pvbAccess (of_decide_eq_true hi)
  | ifbRd k => exact decodeBus_ifbAccess (of_decide_eq_true hi)
  | afbWr k v => exact (decodeBus_afbAccess (of_decide_eq_true hi)).trans (by simp)
  | pvbWr k v => exact (decodeBus_pvbAccess (of_decide_eq_true hi)).trans (by simp)
  | ifbWr k v => exact (decodeBus_ifbAccess (of_decide_eq_true hi)).trans (by simp)

/-- Settles O2: in each of the three encodings, what decodes is encoded back to where it came from. -/
theorem decodedCodesHaveOneMeaning : Obligations.DecodedCodesHaveOneMeaning := by
  intro e i h
  cases e with
  | cmd w => exact encode_of_decodeCommand_ok h
  | uop c => exact encode_of_decodeUop_ok h
  | bus d data => exact encode_of_decodeBus_ok h

/-- Settles O3: nine closed words, by evaluating the decoder. -/
theorem specWordsDecode : Obligations.SpecWordsDecode := by
  unfold Obligations.SpecWordsDecode
  decide

end Sys2Proof

namespace Sys2Proof.Machine

/-! ## Illegal command words written to CMD (42_commands.md R195) -/

/-- A word other than NOP and RESET written to CMD is issued as a command: dropped while busy, run while idle. -/
theorem exec_regWr_cmd {w : Word} (h0 : w ≠ 0#32) (hF : w ≠ 0xF#32) (s : State) :
    exec (.regWr 0#6 w) s = .next (issueCommand (commandBody w) s) := by
  cases hb : s.busy <;>
    simp [exec, execRegWr, registerWrite, storeRegister, commandWrite, issueCommand, h0, hF, hb]

/-- An illegal word written to CMD is issued as the error E_ILLEGAL_CMD. -/
theorem exec_regWr_illegal {w : Word} (h : decode (.cmd w) = .rejected .illegalCommand) (s : State) :
    exec (.regWr 0#6 w) s = .next (issueCommand (raiseError .illegalCmd) s) := by
  obtain ⟨h0, h1, h2, h3, hF⟩ := (not_isCommandWord_iff_ne w).1 ((decodeCommand_illegal_iff w).1 h)
  have hbody : commandBody w = raiseError .illegalCmd := by
    funext u
    simp only [commandBody, if_neg h1, if_neg h2, if_neg h3]
  rw [exec_regWr_cmd h0 hF, hbody]

/-- Settles O21: every word but the five of R101 is illegal, and is issued as the error E_ILLEGAL_CMD. -/
theorem illegalCommandWordsRaiseAnError : Obligations.IllegalCommandWordsRaiseAnError := by
  intro w
  refine ⟨(decodeCommand_illegal_iff w).trans (not_isCommandWord_iff_fields w), decodeCommand_ok_iff w,
    fun h s => ⟨fun hb => ?_, fun hb => ?_⟩⟩
  · rw [exec_regWr_illegal h, issueCommand_of_busy _ hb]
    rfl
  · rw [exec_regWr_illegal h, issueCommand_of_idle _ hb]
    exact ⟨_, rfl, rfl, rfl, rfl⟩

end Sys2Proof.Machine
end

section
/-! SUPPORT. How far PVB is packed: what each operation keeps of it, and where the packer's advance leaves the position. -/

namespace Sys2Proof.Machine

variable {s t : State} {i : Instr}

/-! ## Written bytes (10_state.md R48) -/

theorem Memory.Written.mono {n k : Nat} {m : Memory} (h : m.Written n) (hk : k ≤ n) : m.Written k :=
  fun a ha => h a (by omega)

/-- A triplet stored behind the written bytes makes three more. -/
theorem writeTriplet_written {d : Nat} {m : Memory} (h : m.Written d) (x : Triplet) :
    (writeTriplet m d x).Written (d + 3) := by
  intro a ha
  rw [read_writeTriplet]
  split
  · rfl
  · split
    · rfl
    · split
      · rfl
      · exact h a (by omega)

/-! ## The packed part of PVB (40_pixel_packer.md R136, R137) -/

/-- The micro-op of the last triplet completes the packer (40_pixel_packer.md R137). -/
theorem packAdvance_last (hr : s.row.toNat = 159) (ht : s.trip.toNat = 35) :
    packAdvance s = packComplete { s with trip := 0#6, row := 160#8 } := by
  rcases packAdvance_cases (s := s) (by omega) with ⟨h, -⟩ | ⟨-, h, -⟩ | ⟨-, -, h⟩
  · omega
  · omega
  · rw [h, show s.row + 1#8 = 160#8 by bv_omega]

/-- What leaves the packer stopped and PVB alone, and claims no frame, keeps the packed part. -/
theorem PackedSoFar.of_not_packing (h : PackedSoFar s) (hp : t.pvb = s.pvb)
    (hv : t.pvbValid = true → s.pvbValid = true) (he : t.engine ≠ .packer) : PackedSoFar t :=
  ⟨fun ht => hp ▸ h.1 (hv ht), fun ht => absurd ht he⟩

theorem packedSoFar_packComplete (hw : s.pvb.Written 17280) : PackedSoFar (packComplete s) := by
  have he : (packComplete s).engine ≠ .packer := by
    rcases Bool.eq_false_or_eq_true s.chain with hc | hc
    · simp [packComplete_of_chain hc]
    · simp [packComplete_of_no_chain hc]
  exact ⟨fun _ => by simpa using hw, fun h => absurd h he⟩

/-- The advance past a triplet whose bytes are written. -/
theorem packedSoFar_packAdvance (hr : s.row.toNat < 160) (ht : s.trip.toNat < 36) (hv : s.pvbValid = false)
    (hw : s.pvb.Written (108 * s.row.toNat + 3 * s.trip.toNat + 3)) : PackedSoFar (packAdvance s) := by
  rcases packAdvance_cases hr with ⟨h, hs⟩ | ⟨h35, h, hs⟩ | ⟨h35, h, hs⟩ <;> rw [hs]
  · exact ⟨fun hc => absurd (hv.symm.trans hc) nofun, fun _ => hw.mono (by dsimp only; bv_omega)⟩
  · exact ⟨fun hc => absurd (hv.symm.trans hc) nofun, fun _ => hw.mono (by dsimp only; bv_omega)⟩
  · exact packedSoFar_packComplete (hw.mono (by omega))

theorem packedSoFar_packTriplet {order : Pixels → Triplet} (h : PackedSoFar s) (he : s.engine = .packer)
    (hv : s.pvbValid = false) (hs : packTriplet order s = .next t) : PackedSoFar t := by
  obtain ⟨ho, hr, p, -, rfl⟩ := packTriplet_cases hs
  exact packedSoFar_packAdvance ho hr hv (writeTriplet_written (h.2 he) _)

/-- A start of the packer claims no frame and has packed nothing; the multiplexer's start and an error keep PVB. -/
theorem packedSoFar_checkedStart (h : PackedSoFar s) (op : CheckedOp) :
    PackedSoFar (checkedStart op (startOf op) s) := by
  rcases checkedStart_cases op (startOf op) s with ⟨-, ht⟩ | ⟨code, -, ht⟩ | ⟨-, ht⟩ <;> rw [ht]
  · cases op with
    | pack | encode => exact ⟨nofun, fun _ => nofun⟩
    | mux => exact h.of_not_packing rfl id nofun
  · exact h.of_not_packing rfl id nofun
  · exact h

/-- The multiplexer stores nothing to PVB and its completion gives the frame up (41_frame_multiplexer.md R169). -/
theorem packedSoFar_muxAdvance (h : PackedSoFar s) (he : s.engine = .multiplexer) (hg : s.group.toNat < 1960) :
    PackedSoFar (muxAdvance s) := by
  rcases muxAdvance_cases hg with ⟨-, hs⟩ | ⟨-, -, hs⟩ | ⟨-, -, hs⟩ <;> rw [hs]
  · exact h.of_not_packing rfl id (by simp [he])
  · exact h.of_not_packing rfl id (by simp [he])
  · exact h.of_not_packing rfl nofun nofun

theorem packedSoFar_emitStep (h : PackedSoFar s) (he : s.engine = .multiplexer) (hg : s.group.toNat < 1960) {v : Byte}
    (hs : emitStep v s = .next t) : PackedSoFar t := by
  rcases emitStep_cases hs with (⟨-, rfl⟩ | ⟨rest, -, rfl⟩) | ⟨rest, -, rfl⟩ | ⟨rest, -, rfl⟩
  · exact h
  · exact h
  · exact packedSoFar_muxAdvance h he hg
  · exact h.of_not_packing rfl id nofun

theorem packedSoFar_effect (hi : s.Inv) (h : PackedSoFar s) (e : Effect s i t) : PackedSoFar t := by
  cases e with
  | reset _ => exact ⟨nofun, nofun⟩
  | command op _ => exact packedSoFar_checkedStart (s := clearDone s) h op
  | illegal _ => exact h.of_not_packing rfl id nofun
  | packed _ he hs => exact packedSoFar_packTriplet h he (hi.legal.packer_holds_no_frame he) hs
  | emitted v he hv hs => exact packedSoFar_emitStep h he (muxByte_inside hv).1 hs
  | _ => exact h

/-- MUX_VIDEO reads a byte of the frame that PVB_VALID says is packed (41_frame_multiplexer.md R165). -/
theorem muxVideo_reads_written (hi : s.Inv) (h : PackedSoFar s) : exec .muxVideo s ≠ .fault .unwrittenRead := by
  intro hf
  simp only [exec, execMuxVideo] at hf
  split at hf <;> [skip; cases hf]
  next hu =>
  split at hf <;> [skip; cases hf]
  next hin =>
  simp only [Config.nGroups, Config.groupData] at hin
  have he : s.engine = .multiplexer := by
    cases he : s.engine with
    | idle => simp [seqUop, he] at hu
    | packer => simp only [seqUop, he] at hu; split at hu <;> cases hu
    | multiplexer => rfl
  have hoff : videoOff s.group.toNat s.byte.toNat < 17280 := by
    simp only [videoOff, Config.groupData, Config.videoStart]
    omega
  obtain ⟨v, hv⟩ := Option.isSome_iff_exists.1 (h.1 (hi.legal.mux_holds_frame he) _ hoff)
  rw [hv] at hf
  exact emitStep_no_fault v s _ hf

/-- Settles O50: by cases on the effect of the step; only a packed triplet moves how far PVB is packed. -/
theorem packedBytesAreWritten : Obligations.PackedBytesAreWritten := by
  refine fun s hi h => ⟨fun t hs => ?_, muxVideo_reads_written hi h⟩
  rcases step_effect hs with ⟨-, rest, rfl⟩ | ⟨i, rest, -, e⟩
  · exact ⟨nofun, nofun⟩
  · exact packedSoFar_effect (inv_setInputs hi rest) h e

end Sys2Proof.Machine
end

section
/-! SUPPORT. The packer's micro-ops: what a triplet stores, where the position goes, the completion and the hand-over. -/

namespace Sys2Proof.Machine

variable {s t : State} {i : Instr}

/-! ## The position's micro-op and its operands (40_pixel_packer.md R131 to R133) -/

theorem decodeUop_packEven (he : s.engine = .packer) (hr : s.row.toNat % 2 = 0) :
    decodeUop (seqUop s) = .ok .packEven := by
  simp [seqUop, he, lineEven_iff, hr, decodeUop]

theorem decodeUop_packOdd (he : s.engine = .packer) (hr : s.row.toNat % 2 = 1) :
    decodeUop (seqUop s) = .ok .packOdd := by
  simp [seqUop, he, lineEven_iff, hr, decodeUop]

theorem packSrc_eq (o r : Nat) : packSrc o r = ((159 - o) * 432 + 12 * r) * 3 := by
  simp [packSrc, ifbOff, srcRow]

theorem pvbOff_eq (o r : Nat) : pvbOff o r 0 = 108 * o + 3 * r := rfl

theorem readPixels_eq_none {m : Memory} {a k : Nat} (hk : k < 6) (h : m.read (a + k) = none) :
    readPixels m a = none := by
  refine Option.eq_none_iff_forall_ne_some.2 fun p hp => ?_
  obtain ⟨h0, h1, h2, h3, h4, h5⟩ := readPixels_eq_some.1 hp
  interval_cases k <;> simp_all

/-! ## One packed triplet (40_pixel_packer.md R134, R135) -/

theorem packTriplet_of_written {order : Pixels → Triplet} {p : Pixels} (ho : s.row.toNat < 160)
    (hr : s.trip.toNat < 36) (hp : readPixels s.ifb (packSrc s.row.toNat s.trip.toNat) = some p) :
    packTriplet order s =
      .next (packAdvance { s with pvb := writeTriplet s.pvb (pvbOff s.row.toNat s.trip.toNat 0) (order p) }) := by
  simp [packTriplet, ho, hr, hp]

theorem packTriplet_of_unwritten {order : Pixels → Triplet} (ho : s.row.toNat < 160) (hr : s.trip.toNat < 36)
    (hp : readPixels s.ifb (packSrc s.row.toNat s.trip.toNat) = none) :
    packTriplet order s = .fault .unwrittenRead := by
  simp [packTriplet, ho, hr, hp]

/-- A triplet inside the frame: its three bytes are stored if its six source bytes are written, and it faults if one is
not. -/
theorem packTriplet_stores {order : Pixels → Triplet} (ho : s.row.toNat < 160) (hr : s.trip.toNat < 36) :
    let a := ((159 - s.row.toNat) * 432 + 12 * s.trip.toNat) * 3
    let d := 108 * s.row.toNat + 3 * s.trip.toNat
    (∀ p, readPixels s.ifb a = some p →
      ∃ m, packTriplet order s = .next (packAdvance { s with pvb := m }) ∧
        m.read d = some (order p).b0 ∧ m.read (d + 1) = some (order p).b1 ∧ m.read (d + 2) = some (order p).b2 ∧
        ∀ x, x ≠ d → x ≠ d + 1 → x ≠ d + 2 → m.read x = s.pvb.read x) ∧
    ((∃ k < 6, s.ifb.read (a + k) = none) → packTriplet order s = .fault .unwrittenRead) := by
  dsimp only
  rw [← packSrc_eq, ← pvbOff_eq]
  refine ⟨fun p hp => ⟨_, packTriplet_of_written ho hr hp, ?_⟩, fun ⟨k, hk, h⟩ => ?_⟩
  · simp +contextual [read_writeTriplet]
  · exact packTriplet_of_unwritten ho hr (readPixels_eq_none hk h)

/-- Settles O30: the micro-op of an EVEN position packs its triplet in the EVEN order. -/
theorem packEvenPacksItsTriplet : Obligations.PackEvenPacksItsTriplet := by
  intro s he ho hr ht
  have hi := decodeUop_packEven he hr
  obtain ⟨hstore, hfault⟩ := packTriplet_stores (order := evenTriplet) ho ht
  rw [exec_named_pack hi he, if_pos hr]
  exact ⟨fun r0 g0 b0 r1 g1 b1 h0 h1 h2 h3 h4 h5 =>
    hstore ⟨r0, g0, b0, r1, g1, b1⟩ (readPixels_eq_some.2 ⟨h0, h1, h2, h3, h4, h5⟩), hfault, hi⟩

/-- Settles O31: the micro-op of an ODD position packs its triplet in the ODD order. -/
theorem packOddPacksItsTriplet : Obligations.PackOddPacksItsTriplet := by
  intro s he ho hr ht
  have hi := decodeUop_packOdd he hr
  obtain ⟨hstore, hfault⟩ := packTriplet_stores (order := oddTriplet) ho ht
  rw [exec_named_pack hi he, if_neg (by omega)]
  exact ⟨fun r0 g0 b0 r1 g1 b1 h0 h1 h2 h3 h4 h5 =>
    hstore ⟨r0, g0, b0, r1, g1, b1⟩ (readPixels_eq_some.2 ⟨h0, h1, h2, h3, h4, h5⟩), hfault, hi⟩

/-! ## The advance and the completion (40_pixel_packer.md R136, R137) -/

/-- A PACK micro-op stores to PVB and advances from its position, which is inside the frame. -/
theorem pack_advances (hi : i = .packEven ∨ i = .packOdd) (h : exec i s = .next t) :
    s.row.toNat < 160 ∧ t = packAdvance { s with pvb := t.pvb } := by
  obtain ⟨-, hp⟩ := pack_packs hi h
  obtain ⟨ho, -, p, -, rfl⟩ := packTriplet_cases hp
  exact ⟨ho, by rw [packAdvance_pvb]⟩

/-- Settles O32: the first two cases of the advance. -/
theorem packMicroOpsAdvance : Obligations.PackMicroOpsAdvance := by
  intro i s t hi h
  obtain ⟨ho, ht⟩ := pack_advances hi h
  rcases packAdvance_cases (s := { s with pvb := t.pvb }) ho with ⟨h35, hs⟩ | ⟨h35, h159, hs⟩ | ⟨h35, h159, -⟩ <;>
    dsimp only at h35
  · rw [hs] at ht
    have htrip : t.trip = s.trip + 1#6 := by rw [ht]
    exact ⟨fun _ => ⟨by bv_omega, by rw [htrip]; exact ht⟩, fun hlast => absurd hlast (by omega)⟩
  · rw [hs] at ht
    have hrow : t.row = s.row + 1#8 := by rw [ht]
    exact ⟨fun hlt => absurd hlt (by omega), fun _ hlt => ⟨by bv_omega, by rw [hrow]; exact ht⟩⟩
  · exact ⟨fun hlt => absurd hlt (by omega), fun _ hlt => absurd h159 hlt.ne⟩

/-- The micro-op at (159, 35) is the completion, after its stores to PVB. -/
theorem pack_completes (h : exec .packOdd s = .next t) (hr : s.row.toNat = 159) (ht : s.trip.toNat = 35) :
    t = packComplete { s with pvb := t.pvb, trip := 0#6, row := 160#8 } :=
  (pack_advances (.inr rfl) h).2.trans (packAdvance_last (s := { s with pvb := t.pvb }) hr ht)

/-- Settles O33: the completion, by CHAIN. -/
theorem packCompletionHandsOver : Obligations.PackCompletionHandsOver := by
  intro s t h hr ht
  have hc := pack_completes h hr ht
  refine ⟨fun hchain => ?_, fun hchain => ?_⟩
  · exact hc.trans (packComplete_of_no_chain hchain)
  · exact hc.trans (packComplete_of_chain hchain)

/-! ## The hand-over of ENCODE (70_reset_and_hazards.md R274) -/

/-- A checked command given to an idle block whose checks pass starts its engine (60_exceptions.md R225). -/
theorem issueCommand_of_checks {op : CheckedOp} {start : State → State} (hb : s.busy = false) (he : s.err = .none)
    (hi : op ≠ .mux → s.ifbLen.toNat = 207360) (hv : op = .mux → s.pvbValid = true)
    (ha : op ≠ .pack → s.afbLen.toNat = 1960) :
    issueCommand (checkedStart op start) s = start (clearDone s) := by
  rw [issueCommand_of_idle _ hb]
  cases op with
  | pack => simp [checkedStart, commandChecks, he, hi]
  | mux => simp [checkedStart, commandChecks, he, hv, ha]
  | encode => simp [checkedStart, commandChecks, he, hi, ha]

theorem exec_pack_of_checks (hb : s.busy = false) (he : s.err = .none) (hi : s.ifbLen.toNat = 207360) :
    exec .pack s = .next (startPack (clearDone s)) :=
  congrArg _ (issueCommand_of_checks (op := .pack) hb he (fun _ => hi) nofun (absurd rfl))

theorem exec_mux_of_checks (hb : s.busy = false) (he : s.err = .none) (hv : s.pvbValid = true)
    (ha : s.afbLen.toNat = 1960) : exec .mux s = .next (startMux (clearDone s)) :=
  congrArg _ (issueCommand_of_checks (op := .mux) hb he (absurd rfl) (fun _ => hv) fun _ => ha)

theorem exec_encode_of_checks (hb : s.busy = false) (he : s.err = .none) (hi : s.ifbLen.toNat = 207360)
    (ha : s.afbLen.toNat = 1960) : exec .encode s = .next (startEncode (clearDone s)) :=
  congrArg _ (issueCommand_of_checks (op := .encode) hb he (fun _ => hi) nofun fun _ => ha)

/-- A PACK micro-op's stores to PVB do not depend on CHAIN. -/
theorem packOdd_pvb_of_chain {c d : Bool} {u : State} (ht : exec .packOdd { s with chain := c } = .next t)
    (hu : exec .packOdd { s with chain := d } = .next u) : t.pvb = u.pvb := by
  obtain ⟨-, -, p, hp, rfl⟩ := packTriplet_cases (pack_packs (.inr rfl) ht).2
  obtain ⟨-, -, q, hq, rfl⟩ := packTriplet_cases (pack_packs (.inr rfl) hu).2
  cases hp.symm.trans hq
  simp

/-- Settles O45: the completion with CHAIN is the one without it and the start of the multiplexer, which MUX makes. -/
theorem encodeHandOverIsPackThenMux : Obligations.EncodeHandOverIsPackThenMux := by
  intro s t u he hd ha hr htrip ht hu
  have hut : t = startMux (clearDone u) := calc
    t = packComplete { s with chain := true, pvb := u.pvb, trip := 0#6, row := 160#8 } :=
      packOdd_pvb_of_chain ht hu ▸ pack_completes ht hr htrip
    _ = startMux (clearDone (packComplete { s with chain := false, pvb := u.pvb, trip := 0#6, row := 160#8 })) :=
      packComplete_handsOver rfl hd
    _ = startMux (clearDone u) := congrArg (startMux ∘ clearDone) (pack_completes hu hr htrip).symm
  have huc := (packCompletionHandsOver _ u hu hr htrip).1 rfl
  rw [hut]
  apply exec_mux_of_checks <;> rw [huc]
  · exact he
  · exact ha

end Sys2Proof.Machine
end

section
/-! SUPPORT. What the packer reads: bits 7:4 of the bytes of the columns 0 and 1 modulo 12 (40_pixel_packer.md R140). -/

namespace Sys2Proof.Machine

variable {s t : State} {i : Instr}

/-- The high nibbles of the six bytes, all that is packed of them (40_pixel_packer.md R130). -/
def Pixels.nibbles (p : Pixels) : Pixels := ⟨lo p.r0, lo p.g0, lo p.b0, lo p.r1, lo p.g1, lo p.b1⟩

theorem hi_eq_lo_shiftLeft (x : Byte) : hi x = lo x <<< 4 := by
  ext k hk
  interval_cases k <;> simp [hi, lo]

theorem hi_congr {x y : Byte} (h : lo x = lo y) : hi x = hi y := by
  rw [hi_eq_lo_shiftLeft, hi_eq_lo_shiftLeft, h]

/-- The packed bytes depend on the high nibbles only. -/
theorem evenTriplet_congr {p q : Pixels} (h : p.nibbles = q.nibbles) : evenTriplet p = evenTriplet q := by
  obtain ⟨hr0, hg0, hb0, hr1, hg1, hb1⟩ := Pixels.mk.inj h
  simp only [evenTriplet, hi_congr hr0, hg0, hi_congr hb0, hr1, hi_congr hg1, hb1]

theorem oddTriplet_congr {p q : Pixels} (h : p.nibbles = q.nibbles) : oddTriplet p = oddTriplet q := by
  obtain ⟨hr0, hg0, hb0, hr1, hg1, hb1⟩ := Pixels.mk.inj h
  simp only [oddTriplet, hi_congr hg0, hb0, hi_congr hr0, hg1, hi_congr hb1, hr1]

/-- A buffer whose six bytes have the same high nibbles has the same pixels but for their low nibbles. -/
theorem readPixels_congr {m m' : Memory} {a : Nat} {p : Pixels}
    (h : ∀ k < 6, (m'.read (a + k)).map lo = (m.read (a + k)).map lo) (hp : readPixels m a = some p) :
    ∃ q, readPixels m' a = some q ∧ q.nibbles = p.nibbles := by
  have hread {k : Nat} {v : Byte} (hk : k < 6) (hv : m.read (a + k) = some v) :
      ∃ w, m'.read (a + k) = some w ∧ lo w = lo v :=
    Option.map_eq_some_iff.1 ((h k hk).trans (by rw [hv]; rfl))
  obtain ⟨h0, h1, h2, h3, h4, h5⟩ := readPixels_eq_some.1 hp
  obtain ⟨r0, hr0, er0⟩ := hread (k := 0) (by decide) h0
  obtain ⟨g0, hg0, eg0⟩ := hread (by decide) h1
  obtain ⟨b0, hb0, eb0⟩ := hread (by decide) h2
  obtain ⟨r1, hr1, er1⟩ := hread (by decide) h3
  obtain ⟨g1, hg1, eg1⟩ := hread (by decide) h4
  obtain ⟨b1, hb1, eb1⟩ := hread (by decide) h5
  exact ⟨⟨r0, g0, b0, r1, g1, b1⟩, readPixels_eq_some.2 ⟨hr0, hg0, hb0, hr1, hg1, hb1⟩,
    by simp only [Pixels.nibbles, er0, eg0, eb0, er1, eg1, eb1]⟩

/-- The six source bytes of a triplet are those of two pixels, at columns 0 and 1 modulo 12 (40_pixel_packer.md
R132). -/
theorem packSrc_columns {o r k : Nat} (ho : o < 160) (hr : r < 36) (hk : k < 6) :
    ∃ row c ch, row < 160 ∧ c < 432 ∧ ch < 3 ∧ c % 12 < 2 ∧ packSrc o r + k = ifbOff row c ch := by
  refine ⟨159 - o, 12 * r + k / 3, k % 3, by omega, by omega, by omega, by omega, ?_⟩
  simp only [packSrc_eq, ifbOff, Config.width, Config.bpp]
  omega

theorem packComplete_setIfb (s : State) (m : Memory) :
    packComplete { s with ifb := m } = { packComplete s with ifb := m } := by
  unfold packComplete
  dsimp only
  split <;> rfl

/-- Neither the completion nor the advance looks at IFB. -/
theorem packAdvance_setIfb (s : State) (m : Memory) :
    packAdvance { s with ifb := m } = { packAdvance s with ifb := m } := by
  unfold packAdvance
  dsimp only
  split
  · split
    · exact packComplete_setIfb { s with trip := s.trip + 1#6 } m
    · rfl
  · split
    · exact packComplete_setIfb { s with trip := 0#6, row := s.row + 1#8 } m
    · rfl

/-- The PACK micro-op that answers a next state is the one the position names (42_commands.md R201). -/
theorem decodeUop_of_pack (hi : i = .packEven ∨ i = .packOdd) (h : exec i s = .next t) :
    decodeUop (seqUop s) = .ok i := by
  rcases hi with rfl | rfl
  · simp only [exec, execPackEven] at h
    split at h <;> [skip; cases h]
    next hu => rw [hu]; rfl
  · simp only [exec, execPackOdd] at h
    split at h <;> [skip; cases h]
    next hu => rw [hu]; rfl

/-- A triplet packed from a frame with the same high nibbles is the same step, but for the frame. -/
theorem packTriplet_setIfb {order : Pixels → Triplet} {m : Memory}
    (horder : ∀ p q : Pixels, p.nibbles = q.nibbles → order p = order q)
    (halike : ∀ k < 6, (m.read (packSrc s.row.toNat s.trip.toNat + k)).map lo =
      (s.ifb.read (packSrc s.row.toNat s.trip.toNat + k)).map lo)
    (h : packTriplet order s = .next t) : packTriplet order { s with ifb := m } = .next { t with ifb := m } := by
  obtain ⟨ho, hr, p, hp, rfl⟩ := packTriplet_cases h
  obtain ⟨q, hq, hpq⟩ := readPixels_congr halike hp
  rw [packTriplet_of_written (s := { s with ifb := m }) ho hr hq, horder q p hpq, ← packAdvance_setIfb]

/-- Settles O35: the same position packs pixels that differ in their low nibbles only. -/
theorem packDependsOnHighNibblesOfTwoColumns : Obligations.PackDependsOnHighNibblesOfTwoColumns := by
  intro i s t m hi halike h
  obtain ⟨he, hp⟩ := pack_packs hi h
  obtain ⟨ho, hr, -⟩ := packTriplet_cases hp
  have hsix (k : Nat) (hk : k < 6) : (m.read (packSrc s.row.toNat s.trip.toNat + k)).map lo =
      (s.ifb.read (packSrc s.row.toNat s.trip.toNat + k)).map lo := by
    obtain ⟨row, c, ch, hrow, hc, hch, hcol, hoff⟩ := packSrc_columns ho hr hk
    rw [hoff]
    exact halike row c ch hrow hc hch hcol
  have hnamed := decodeUop_of_pack hi h
  rw [exec_named_pack (s := { s with ifb := m }) hnamed he]
  refine packTriplet_setIfb (fun p q hpq => ?_) hsix hp
  split
  · exact evenTriplet_congr hpq
  · exact oddTriplet_congr hpq

end Sys2Proof.Machine
end

section
/-! SUPPORT. Whole runs: the packer from its first triplet to its completion (40_pixel_packer.md R136 to R138), the
multiplexer from payload offset 0 to its own (41_frame_multiplexer.md R168 to R170), and ENCODE, one after the other. -/

namespace Sys2Proof.Machine

variable {s t : State} {i : Instr}

/-! ## Runs -/

theorem run_step {k : Nat} (h : step s = .next t) : Host.Core.run core (k + 1) s = Host.Core.run core k t := by
  simp [Host.Core.run, show core.step s = .next t from h]

theorem run_trans {k n : Nat} (h : Host.Core.run core k s = .next t) :
    Host.Core.run core (k + n) s = Host.Core.run core n t := by
  induction k generalizing s with
  | zero => cases h; rw [Nat.zero_add]
  | succ k ih =>
    rw [Nat.succ_add]
    cases hs : step s with
    | next u => rw [run_step hs] at h ⊢; exact ih h
    | fault r => simp [Host.Core.run, show core.step s = .fault r from hs] at h
    | refused r => simp [Host.Core.run, show core.step s = .refused r from hs] at h

/-- With nothing from outside the step is the micro-op of the position (42_commands.md R190). -/
theorem step_of_no_inputs (hs : s.inputs = []) (hi : decodeUop (seqUop s) = .ok i) : step s = exec i s := by
  rw [step_of_turn (.inl ⟨hs, rfl⟩) hi, setInputs_nil hs]

/-- A legal command word next in `inputs` runs as its command (30_encoding.md R109). -/
theorem step_of_command {w : Word} {rest : List Input} (hs : s.inputs = .cmd w :: rest)
    (hw : decodeCommand w = .ok i) : step s = exec i { s with inputs := rest } :=
  step_of_fetch_instr (by simp [fetch, hs, fetchCommand, decode, hw])

/-! ## The packed frame (40_pixel_packer.md R138) -/

/-- The six bytes of a frame from offset `a`. -/
def framePixels (F : Nat → Byte) (a : Nat) : Pixels := ⟨F a, F (a + 1), F (a + 2), F (a + 3), F (a + 4), F (a + 5)⟩

/-- The frame `F` is in IFB. -/
def HoldsFrame (F : Nat → Byte) (m : Memory) : Prop := ∀ a < 207360, m.read a = some (F a)

/-- The first `n` triplets of `PackFrame(F)` are in PVB, in output order. -/
def HoldsPacked (F : Nat → Byte) (n : Nat) (m : Memory) : Prop :=
  ∀ o r j, r < 36 → j < 3 → 36 * o + r < n → m.read (108 * o + 3 * r + j) = some (packFrame F o r j)

theorem HoldsFrame.readPixels {F : Nat → Byte} {m : Memory} (h : HoldsFrame F m) {o r : Nat} (hr : r < 36) :
    readPixels m (packSrc o r) = some (framePixels F (packSrc o r)) := by
  rw [packSrc_eq]
  exact readPixels_eq_some.2 ⟨h _ (by omega), h _ (by omega), h _ (by omega), h _ (by omega), h _ (by omega),
    h _ (by omega)⟩

/-- The triplet the micro-op of row `o` packs is that of `PackFrame(F)`. -/
theorem packFrame_eq (F : Nat → Byte) (o r : Nat) :
    let x := (if o % 2 = 0 then evenTriplet else oddTriplet) (framePixels F (packSrc o r))
    packFrame F o r 0 = x.b0 ∧ packFrame F o r 1 = x.b1 ∧ packFrame F o r 2 = x.b2 := by
  dsimp only
  rw [packSrc_eq]
  by_cases ho : o % 2 = 0
  · simp [packFrame, ho, evenTriplet, framePixels, hi, lo]
  · simp [packFrame, ho, oddTriplet, framePixels, hi, lo]

theorem HoldsPacked.snoc {F : Nat → Byte} {m : Memory} {o r : Nat} (h : HoldsPacked F (36 * o + r) m) (hr : r < 36) :
    HoldsPacked F (36 * o + r + 1) (writeTriplet m (pvbOff o r 0)
      ((if o % 2 = 0 then evenTriplet else oddTriplet) (framePixels F (packSrc o r)))) := by
  intro o' r' j hr' hj hlt
  obtain ⟨h0, h1, h2⟩ := packFrame_eq F o r
  rw [read_writeTriplet, pvbOff_eq]
  by_cases hlast : 36 * o' + r' = 36 * o + r
  · obtain ⟨rfl, rfl⟩ : o' = o ∧ r' = r := by omega
    interval_cases j
    · simp [h0]
    · simp [h1]
    · simp [h2]
  · rw [if_neg (by omega), if_neg (by omega), if_neg (by omega)]
    exact h o' r' j hr' hj (by omega)

theorem HoldsPacked.written {F : Nat → Byte} {m : Memory} (h : HoldsPacked F 5760 m) : m.Written 17280 := by
  intro a ha
  rw [show a = 108 * (a / 108) + 3 * (a % 108 / 3) + a % 3 by omega, h _ _ _ (by omega) (by omega) (by omega)]
  rfl

/-! ## The packer's run -/

/-- Before the last triplet the advance moves the position to the next triplet in output order, and nothing else
(40_pixel_packer.md R136). -/
theorem packAdvance_position (ht : s.trip.toNat < 36) (hn : 36 * s.row.toNat + s.trip.toNat + 1 < 5760) :
    ∃ row trip, packAdvance s = { s with row := row, trip := trip } ∧ trip.toNat < 36 ∧
      36 * row.toNat + trip.toNat = 36 * s.row.toNat + s.trip.toNat + 1 := by
  rcases packAdvance_cases (s := s) (by omega) with ⟨h35, hs⟩ | ⟨h35, h159, hs⟩ | ⟨h35, h159, -⟩
  · exact ⟨s.row, s.trip + 1#6, hs, by bv_omega, by bv_omega⟩
  · exact ⟨s.row + 1#8, 0#6, hs, by bv_omega, by bv_omega⟩
  · omega

/-- The packer runs undisturbed over the frame `F`, with the triplets before its position packed and `k + 1` to go. -/
structure Packing (F : Nat → Byte) (k : Nat) (s : State) : Prop where
  engine : s.engine = .packer
  inputs : s.inputs = []
  frame : HoldsFrame F s.ifb
  trip_lt : s.trip.toNat < 36
  to_go : 36 * s.row.toNat + s.trip.toNat + (k + 1) = 5760
  packed : HoldsPacked F (36 * s.row.toNat + s.trip.toNat) s.pvb

/-- Its step packs the triplet of the position. -/
theorem Packing.step {F : Nat → Byte} {k : Nat} (h : Packing F k s) :
    ∃ m, Machine.step s = .next (packAdvance { s with pvb := m }) ∧
      HoldsPacked F (36 * s.row.toNat + s.trip.toNat + 1) m := by
  obtain ⟨i, hi⟩ := decodeUop_seqUop s
  have ho : s.row.toNat < 160 := by have := h.to_go; omega
  refine ⟨_, ?_, h.packed.snoc h.trip_lt⟩
  rw [step_of_no_inputs h.inputs hi, exec_named_pack hi h.engine,
    packTriplet_of_written ho h.trip_lt (h.frame.readPixels h.trip_lt)]

/-- Before the last triplet the advance leaves the packer running, one triplet on, and moves nothing but its position. -/
theorem Packing.advance {F : Nat → Byte} {k : Nat} {m : Memory} (h : Packing F (k + 1) s)
    (hm : HoldsPacked F (36 * s.row.toNat + s.trip.toNat + 1) m) :
    ∃ row trip, packAdvance { s with pvb := m } = { s with pvb := m, row := row, trip := trip } ∧
      Packing F k { s with pvb := m, row := row, trip := trip } := by
  have hgo := h.to_go
  obtain ⟨row, trip, ha, ht, hpos⟩ := packAdvance_position (s := { s with pvb := m }) h.trip_lt (by dsimp only; omega)
  dsimp only at hpos
  exact ⟨row, trip, ha, h.engine, h.inputs, h.frame, ht, by dsimp only; omega, by dsimp only; rwa [hpos]⟩

/-- The packer's run packs the frame and completes (40_pixel_packer.md R137, R138). -/
theorem Packing.run {F : Nat → Byte} {k : Nat} (h : Packing F k s) :
    ∃ m, Host.Core.run core (k + 1) s = .next (packComplete { s with pvb := m, trip := 0#6, row := 160#8 }) ∧
      HoldsPacked F 5760 m := by
  induction k generalizing s with
  | zero =>
    obtain ⟨m, hs, hm⟩ := h.step
    have hgo := h.to_go
    have htrip := h.trip_lt
    refine ⟨m, ?_, hgo ▸ hm⟩
    rw [run_step hs, packAdvance_last (s := { s with pvb := m }) (by dsimp only; omega) (by dsimp only; omega)]
    rfl
  | succ k ih =>
    obtain ⟨m, hs, hm⟩ := h.step
    obtain ⟨row, trip, ha, hp⟩ := h.advance hm
    rw [run_step hs, ha]
    exact ih hp

/-- The packer just started on the frame `F` (42_commands.md R197). -/
theorem packing_first {F : Nat → Byte} (he : s.engine = .packer) (hi : s.inputs = []) (hf : HoldsFrame F s.ifb)
    (hr : s.row = 0#8) (ht : s.trip = 0#6) : Packing F 5759 s where
  engine := he
  inputs := hi
  frame := hf
  trip_lt := by simp [ht]
  to_go := by simp [hr, ht]
  packed := by simp [HoldsPacked, hr, ht]

/-- Settles O36: PACK starts the packer, whose run of 5760 triplets completes. -/
theorem packRunLeavesThePackedFrame : Obligations.PackRunLeavesThePackedFrame := by
  intro s F hb he hl hin hf
  have hs : step s = .next (startPack (clearDone { s with inputs := [] })) := by
    rw [step_of_command hin (i := .pack) rfl]
    exact exec_pack_of_checks hb he hl
  obtain ⟨m, hrun, hm⟩ := Packing.run (s := startPack (clearDone { s with inputs := [] }))
    (packing_first rfl rfl hf rfl rfl)
  refine ⟨_, (run_step hs).trans hrun, ?_, ?_⟩
  · intro o r j ho hr hj
    rw [packComplete_pvb]
    exact hm o r j hr hj (by omega)
  · rw [packComplete_of_no_chain rfl]
    rfl

end Sys2Proof.Machine
end

section
/-! SUPPORT. The multiplexer's whole run from payload offset 0 to its completion (41_frame_multiplexer.md R168 to R170),
and ENCODE, which hands the packed frame over to it (42_commands.md R199). -/

namespace Sys2Proof.Machine

variable {s : State}

/-! ## The multiplexer's run -/

/-- Every position of the payload has a byte once the frame is packed and the audio is loaded (41_frame_multiplexer.md
R161). -/
theorem muxByte_of_written (hp : s.pvb.Written 17280) (ha : s.afb.Written 1960) {g j : Nat} (hg : g < 1960)
    (hj : j ≤ 9) : ∃ v, muxByte s g j = some v := by
  rcases hj.lt_or_eq with hj | rfl
  · rcases Nat.lt_or_ge g 24 with h | h
    · exact ⟨_, muxByte_sync1 h hj⟩
    · rcases Nat.lt_or_ge g 36 with h' | h'
      · exact ⟨_, muxByte_sync2 h h' hj⟩
      · rcases Nat.lt_or_ge g 40 with h'' | h''
        · exact ⟨_, muxByte_sync3 h' h'' hj⟩
        · rw [muxByte_video h'' hg hj]
          exact Option.isSome_iff_exists.1 (hp _ (by simp only [videoOff, Config.groupData, Config.videoStart]; omega))
  · rw [muxByte_audio hg]
    exact Option.isSome_iff_exists.1 (ha g hg)

/-- The multiplexer runs undisturbed on a packed frame and its audio, the sink holding after `base` the payload bytes
before the position, with `k + 1` to go that the sink will accept. -/
structure Emitting (base : List Byte) (more : List SinkAnswer) (k : Nat) (s : State) : Prop where
  engine : s.engine = .multiplexer
  inputs : s.inputs = []
  sink : s.sink = List.replicate (k + 1) .accept ++ more
  pvb : s.pvb.Written 17280
  afb : s.afb.Written 1960
  byte_le : s.byte.toNat ≤ 9
  to_go : 10 * s.group.toNat + s.byte.toNat + (k + 1) = 19600
  sent : PayloadPrefix base s (10 * s.group.toNat + s.byte.toNat)

/-- The state in which the position's byte `v` has been accepted and the position not yet advanced. -/
def acceptByte (v : Byte) (rest : List SinkAnswer) (s : State) : State :=
  { s with offered := none, accepted := s.accepted ++ [v], sink := rest }

section Run

variable {base : List Byte} {more : List SinkAnswer} {k : Nat}

/-- Its step emits the byte of the position, the next one of the payload. -/
theorem Emitting.step (h : Emitting base more k s) :
    ∃ v rest, rest = List.replicate k .accept ++ more ∧ Machine.step s = .next (muxAdvance (acceptByte v rest s)) ∧
      PayloadPrefix base (acceptByte v rest s) (10 * s.group.toNat + s.byte.toNat + 1) := by
  have hgo := h.to_go
  obtain ⟨i, hi⟩ := decodeUop_seqUop s
  obtain ⟨v, hv⟩ := muxByte_of_written h.pvb h.afb (g := s.group.toNat) (by omega) h.byte_le
  refine ⟨v, _, rfl, ?_, h.sent.snoc ((payloadByte_position h.byte_le).trans hv) rfl rfl rfl rfl⟩
  rw [step_of_no_inputs h.inputs hi, exec_named_mux_eq_emitStep hi h.engine hv]
  simp [emitStep, h.sink, List.replicate_succ, acceptByte]

/-- Before the last byte the advance moves the position to the next payload offset, and nothing else
(41_frame_multiplexer.md R168). -/
theorem muxAdvance_next (hb : s.byte.toNat ≤ 9) (hn : 10 * s.group.toNat + s.byte.toNat + 1 < 19600) :
    ∃ group byte, muxAdvance s = { s with group := group, byte := byte } ∧ byte.toNat ≤ 9 ∧
      10 * group.toNat + byte.toNat = 10 * s.group.toNat + s.byte.toNat + 1 := by
  rcases muxAdvance_cases (s := s) (by omega) with ⟨h9, hs⟩ | ⟨h9, h1959, hs⟩ | ⟨h9, h1959, -⟩
  · exact ⟨s.group, s.byte + 1#4, hs, by bv_omega, by bv_omega⟩
  · exact ⟨s.group + 1#11, 0#4, hs, by bv_omega, by bv_omega⟩
  · omega

/-- The last byte completes the payload (41_frame_multiplexer.md R169). -/
theorem muxAdvance_last (hg : s.group.toNat = 1959) (hb : s.byte.toNat = 9) :
    muxAdvance s = muxComplete { s with byte := 0#4, group := 1960#11 } := by
  rcases muxAdvance_cases (s := s) (by omega) with ⟨h, -⟩ | ⟨-, h, -⟩ | ⟨-, -, h⟩
  · omega
  · omega
  · rw [h, show s.group + 1#11 = 1960#11 by bv_omega]

/-- Before the last byte the advance leaves the multiplexer running, one byte on. -/
theorem Emitting.advance {v : Byte} {rest : List SinkAnswer} (h : Emitting base more (k + 1) s)
    (hrest : rest = List.replicate (k + 1) .accept ++ more)
    (hp : PayloadPrefix base (acceptByte v rest s) (10 * s.group.toNat + s.byte.toNat + 1)) :
    ∃ group byte, muxAdvance (acceptByte v rest s) = { acceptByte v rest s with group := group, byte := byte } ∧
      Emitting base more k { acceptByte v rest s with group := group, byte := byte } := by
  have hgo := h.to_go
  obtain ⟨group, byte, ha, hb, hpos⟩ := muxAdvance_next (s := acceptByte v rest s) h.byte_le
    (by dsimp only [acceptByte]; omega)
  dsimp only [acceptByte] at hpos
  refine ⟨group, byte, ha, h.engine, h.inputs, hrest, h.pvb, h.afb, hb, ?_, ?_⟩
  · dsimp only
    omega
  · dsimp only
    rw [hpos]
    exact hp.congr rfl rfl rfl rfl

/-- The multiplexer's run gives the sink the whole payload and completes (41_frame_multiplexer.md R169, R170). -/
theorem Emitting.run (h : Emitting base more k s) :
    ∃ l, let t := muxComplete { s with
        offered := none, accepted := l, sink := more, byte := 0#4, group := 1960#11 }
      Host.Core.run core (k + 1) s = .next t ∧ PayloadPrefix base t 19600 := by
  induction k generalizing s with
  | zero =>
    obtain ⟨v, rest, rfl, hs, hp⟩ := h.step
    have hgo := h.to_go
    have hb := h.byte_le
    rw [hgo] at hp
    refine ⟨s.accepted ++ [v], ?_, hp.congr rfl rfl rfl rfl⟩
    rw [run_step hs, muxAdvance_last (by dsimp only [acceptByte]; omega) (by dsimp only [acceptByte]; omega)]
    rfl
  | succ k ih =>
    obtain ⟨v, rest, hrest, hs, hp⟩ := h.step
    obtain ⟨group, byte, ha, hnext⟩ := h.advance hrest hp
    rw [run_step hs, ha]
    exact ih hnext

/-- The multiplexer just started on a packed frame and its audio (42_commands.md R198). -/
theorem emitting_first (he : s.engine = .multiplexer) (hi : s.inputs = [])
    (hs : s.sink = List.replicate 19600 .accept ++ more) (hp : s.pvb.Written 17280) (ha : s.afb.Written 1960)
    (hg : s.group = 0#11) (hb : s.byte = 0#4) : Emitting s.accepted more 19599 s where
  engine := he
  inputs := hi
  sink := hs
  pvb := hp
  afb := ha
  byte_le := by simp [hb]
  to_go := by simp [hg, hb]
  sent := ⟨[], by simp, by simp [hg, hb], by simp [hg, hb]⟩

end Run

/-! ## ENCODE (42_commands.md R199) -/

/-- Settles O44: ENCODE starts the packer with CHAIN, whose run hands over to the multiplexer's. -/
theorem encodeRunPacksAndEmits : Obligations.EncodeRunPacksAndEmits := by
  intro s F more hb he hlen ha hin hsink ho hf haud
  have hs : step s = .next (startEncode (clearDone { s with inputs := [] })) := by
    rw [step_of_command hin (i := .encode) rfl]
    exact exec_encode_of_checks hb he hlen ha
  obtain ⟨m, hpack, hm⟩ := Packing.run (s := startEncode (clearDone { s with inputs := [] }))
    (packing_first rfl rfl hf rfl rfl)
  rw [packComplete_of_chain rfl] at hpack
  obtain ⟨l, hmux, hsent⟩ := Emitting.run
    (emitting_first (s := startMux { startEncode (clearDone { s with inputs := [] }) with
      pvb := m, trip := 0#6, row := 160#8, pvbValid := true, ifbLen := 0#18, chain := false })
      rfl rfl hsink hm.written haud rfl rfl)
  refine ⟨_, (run_step hs).trans ((run_trans hpack).trans hmux), ?_, hsent, ?_⟩
  · exact fun o r j ho hr hj => hm o r j hr hj (by omega)
  · rw [ho]
    rfl

end Sys2Proof.Machine
end

section
/-! SUPPORT. The frame multiplexer (41_frame_multiplexer.md): the byte each micro-op gives an accepting sink, where the
accepted byte leaves the position, and a MUX from its command to its completion. -/

namespace Sys2Proof.Machine

variable {s t : State} {i : Instr}

/-! ## The position's micro-op (41_frame_multiplexer.md R161) -/

section Named

variable (he : s.engine = .multiplexer)
include he

theorem decodeUop_muxSync1 (hb : s.byte.toNat < 9) (hg : s.group.toNat < 24) :
    decodeUop (seqUop s) = .ok .muxSync1 := by
  simp [seqUop, he, hb.ne, hg, decodeUop]

theorem decodeUop_muxSync2 (hb : s.byte.toNat < 9) (hg : 24 ≤ s.group.toNat) (hg' : s.group.toNat < 36) :
    decodeUop (seqUop s) = .ok .muxSync2 := by
  simp [seqUop, he, hb.ne, Nat.not_lt.2 hg, hg', decodeUop]

theorem decodeUop_muxSync3 (hb : s.byte.toNat < 9) (hg : 36 ≤ s.group.toNat) (hg' : s.group.toNat < 40) :
    decodeUop (seqUop s) = .ok .muxSync3 := by
  simp [seqUop, he, hb.ne, show ¬ s.group.toNat < 24 by omega, Nat.not_lt.2 hg, hg', decodeUop]

theorem decodeUop_muxVideo (hb : s.byte.toNat < 9) (hg : 40 ≤ s.group.toNat) :
    decodeUop (seqUop s) = .ok .muxVideo := by
  simp [seqUop, he, hb.ne, show ¬ s.group.toNat < 24 by omega, show ¬ s.group.toNat < 36 by omega, Nat.not_lt.2 hg,
    decodeUop]

theorem decodeUop_muxAudio (hb : s.byte.toNat = 9) : decodeUop (seqUop s) = .ok .muxAudio := by
  simp [seqUop, he, hb, decodeUop]

end Named

/-! ## An accepting sink (41_frame_multiplexer.md R167) -/

section Accepting

variable {v : Byte} {rest : List SinkAnswer}

theorem emitStep_of_accept (hs : s.sink = .accept :: rest) :
    emitStep v s = .next (muxAdvance (acceptByte v rest s)) := by
  simp [emitStep, hs, acceptByte]

/-- The micro-op of a position with a byte gives that byte to an accepting sink and advances. -/
theorem exec_named_mux_of_accept (hi : decodeUop (seqUop s) = .ok i) (he : s.engine = .multiplexer)
    (hv : muxByte s s.group.toNat s.byte.toNat = some v) (hs : s.sink = .accept :: rest) :
    exec i s = .next (muxAdvance (acceptByte v rest s)) :=
  (exec_named_mux_eq_emitStep hi he hv).trans (emitStep_of_accept hs)

/-- A position of the payload whose byte is unwritten faults, whatever the sink would answer (60_exceptions.md R226). -/
theorem exec_named_mux_of_unwritten (hi : decodeUop (seqUop s) = .ok i) (he : s.engine = .multiplexer)
    (hg : s.group.toNat < 1960) (hb : s.byte.toNat ≤ 9) (hv : muxByte s s.group.toNat s.byte.toNat = none) :
    exec i s = .fault .unwrittenRead := by
  rw [exec_named_mux hi he, if_pos ⟨hg, hb⟩, hv]
  rfl

/-- A MUX micro-op that answers a next state under an accepting sink gave it the byte of the position, which is one of
the payload. -/
theorem mux_accepted (hi : i = .muxSync1 ∨ i = .muxSync2 ∨ i = .muxSync3 ∨ i = .muxVideo ∨ i = .muxAudio)
    (h : exec i s = .next t) (hs : s.sink = .accept :: rest) :
    s.group.toNat < 1960 ∧ ∃ v, t = muxAdvance (acceptByte v rest s) := by
  obtain ⟨-, v, hv, he⟩ := mux_emits hi h
  rw [emitStep_of_accept hs] at he
  cases he
  exact ⟨(muxByte_inside hv).1, v, rfl⟩

end Accepting

/-- Settles O37: the byte of each sync position is the ROM's, and SYNC3 holds nothing but 0xFF. -/
theorem syncMicroOpsEmitTheRom : Obligations.SyncMicroOpsEmitTheRom := by
  intro s rest he hs
  refine ⟨fun j hb hg => ?_, fun j r hb hg => ?_, fun hrom hb hg hg' => ?_⟩
  · refine exec_named_mux_of_accept (decodeUop_muxSync1 he (by omega) hg) he ?_ hs
    rw [hb]
    exact muxByte_sync1 hg j.isLt
  · refine exec_named_mux_of_accept (decodeUop_muxSync2 he (by omega) (by omega) (by omega)) he ?_ hs
    rw [muxByte_sync2 (by omega) (by omega) (by omega)]
    simp [hb, hg]
  · refine exec_named_mux_of_accept (decodeUop_muxSync3 he hb hg hg') he ?_ hs
    rw [muxByte_sync3 hg hg' hb]
    simp [hrom]

/-- Settles O38: the byte of a video position is PVB's and that of an audio position AFB's. -/
theorem videoAndAudioMicroOpsEmitTheBuffers : Obligations.VideoAndAudioMicroOpsEmitTheBuffers := by
  intro s he
  refine ⟨fun hb hg hg' => ?_, fun hb hg => ?_⟩
  · have hi := decodeUop_muxVideo he hb hg
    have hv : muxByte s s.group.toNat s.byte.toNat = s.pvb.read (9 * (s.group.toNat - 40) + s.byte.toNat) :=
      muxByte_video hg hg' hb
    exact ⟨fun h => exec_named_mux_of_unwritten hi he hg' hb.le (hv.trans h),
      fun v rest h hs => exec_named_mux_of_accept hi he (hv.trans h) hs⟩
  · have hi := decodeUop_muxAudio he hb
    have hv : muxByte s s.group.toNat s.byte.toNat = s.afb.read s.group.toNat := by rw [hb, muxByte_audio hg]
    exact ⟨fun h => exec_named_mux_of_unwritten hi he hg hb.le (hv.trans h),
      fun v rest h hs => exec_named_mux_of_accept hi he (hv.trans h) hs⟩

/-! ## Advance and completion (41_frame_multiplexer.md R168, R169) -/

theorem muxAdvance_within_group (hg : s.group.toNat < 1960) (hb : s.byte.toNat < 9) :
    muxAdvance s = { s with byte := s.byte + 1#4 } := by
  rcases muxAdvance_cases hg with ⟨-, h⟩ | ⟨h9, -⟩ | ⟨h9, -⟩
  · exact h
  · omega
  · omega

theorem muxAdvance_next_group (hg : s.group.toNat < 1959) (hb : s.byte.toNat = 9) :
    muxAdvance s = { s with byte := 0#4, group := s.group + 1#11 } := by
  rcases muxAdvance_cases (s := s) (by omega) with ⟨h9, -⟩ | ⟨-, -, h⟩ | ⟨-, h1959, -⟩
  · omega
  · exact h
  · omega

/-- Settles O40: the advance after an accepted byte, within the group, to the next group and at the last byte. -/
theorem acceptedBytesAdvanceOrComplete : Obligations.AcceptedBytesAdvanceOrComplete := by
  intro i s t rest hi h hs
  obtain ⟨hg, v, rfl⟩ := mux_accepted hi h hs
  refine ⟨fun hb => ?_, fun hb hg' => ?_, fun hb hg' => ?_⟩
  · rw [muxAdvance_within_group (s := acceptByte v rest s) hg hb]
    exact ⟨by dsimp only [acceptByte]; bv_omega, rfl⟩
  · rw [muxAdvance_next_group (s := acceptByte v rest s) hg' hb]
    exact ⟨by dsimp only [acceptByte]; bv_omega, rfl⟩
  · rw [muxAdvance_last (s := acceptByte v rest s) hg' hb]
    exact ⟨BitVec.toNat_add .., rfl⟩

/-! ## A whole MUX (42_commands.md R198) -/

/-- Settles O43: MUX starts the multiplexer, whose run from payload offset 0 gives the sink the payload. -/
theorem muxRunEmitsThePayload : Obligations.MuxRunEmitsThePayload := by
  intro s more hb he hv hlen hin hsink ho hpvb hafb
  have hs : step s = .next (startMux (clearDone { s with inputs := [] })) := by
    rw [step_of_command hin (i := .mux) rfl]
    exact exec_mux_of_checks hb he hv hlen
  obtain ⟨l, hrun, hsent⟩ := Emitting.run
    (emitting_first (s := startMux (clearDone { s with inputs := [] })) rfl rfl hsink hpvb hafb rfl rfl)
  refine ⟨_, (run_step hs).trans hrun, hsent, ?_⟩
  rw [ho]
  rfl

end Sys2Proof.Machine
end

section
/-! SUPPORT. How a step runs the host's next access (42_commands.md R190), the host writes that are dropped or stored
(R192, R193, R202), and the commands: what each starts and what it keeps (R195 to R199). -/

namespace Sys2Proof.Machine

variable {s t : State} {i : Instr}

/-! ## The host's next access (42_commands.md R190) -/

section Access

variable {rest : List Input} {d : BitVec 23} {data : Word}

theorem step_of_bus (hs : s.inputs = .bus d data :: rest) (hi : decode (.bus d data) = .ok i) :
    step s = exec i { s with inputs := rest } :=
  step_of_fetch_instr (by simp [fetch, hs, fetchEncoded, hi])

/-- A transaction without a meaning is refused by name, and BUSY is not looked at (60_exceptions.md R229). -/
theorem step_of_bus_rejected {why : Reject} (hs : s.inputs = .bus d data :: rest)
    (hw : decode (.bus d data) = .rejected why) : step s = .refused (rejectRefusal why) := by
  simp [step, fetch, hs, fetchEncoded, hw]

theorem step_of_illegal_command {w : Word} {why : Reject} (hs : s.inputs = .cmd w :: rest)
    (hw : decode (.cmd w) = .rejected why) : step s = exec (.regWr 0#6 w) { s with inputs := rest } :=
  step_of_fetch_instr (by simp [fetch, hs, fetchCommand, hw])

end Access

/-- Settles O5: the head of `inputs`, by what it decodes to. -/
theorem stepRunsTheDecodedAccess : Obligations.StepRunsTheDecodedAccess := fun _ _ =>
  ⟨fun _ _ _ => step_of_bus, fun _ _ => step_of_bus_rejected, fun _ _ => step_of_bus_rejected,
    fun _ _ => step_of_command, fun _ => step_of_illegal_command⟩

/-! ## The idle sequencer (42_commands.md R201) -/

/-- A micro-op whose code the position does not name is no step of the block. -/
theorem exec_of_not_named {c : BitVec 4} (hi : encode i = .uop c) (hc : seqUop s ≠ c) :
    exec i s = .refused .noSuchStep := by
  cases i with
  | idle | packEven | packOdd | muxSync1 | muxSync2 | muxSync3 | muxVideo | muxAudio => cases hi; exact if_neg hc
  | _ => cases hi

/-- Settles O9: an idle position names IDLE and no other micro-op. -/
theorem idleSequencerHasNoStep : Obligations.IdleSequencerHasNoStep := by
  intro s he
  have hu : seqUop s = 0x0#4 := by simp [seqUop, he]
  refine ⟨if_pos hu, step_of_idle he, ?_⟩
  rintro i (rfl | rfl | rfl | rfl | rfl | rfl | rfl) <;>
    exact exec_of_not_named rfl (by rw [hu]; decide)

/-! ## Command words written to CMD (42_commands.md R195) -/

theorem exec_regWr_nop (s : State) : exec (.regWr 0#6 0x00000000#32) s = .next s := by
  simp [exec, execRegWr, registerWrite, storeRegister, commandWrite]

/-- Settles O20: NOP and RESET at once, and the other three words by issuing their command. -/
theorem cmdWritesRunTheirCommand : Obligations.CmdWritesRunTheirCommand := by
  intro w i s hi
  rcases (decodeCommand_ok_iff w).1 ⟨i, hi⟩ with rfl | rfl | rfl | rfl | rfl <;> cases hi
  · exact exec_regWr_nop s
  · exact exec_regWr_cmd (by decide) (by decide) s
  · exact exec_regWr_cmd (by decide) (by decide) s
  · exact exec_regWr_cmd (by decide) (by decide) s
  · obtain ⟨-, hreset, -⟩ := resetAlwaysRuns s
    exact hreset

/-- Settles O19: NOP leaves the state as it is, and `0x00000010` is none of the five command words. -/
theorem nopHasNoEffect : Obligations.NopHasNoEffect :=
  ⟨rfl, fun s => ⟨rfl, exec_regWr_nop s⟩, rfl⟩

/-! ## Starts (42_commands.md R197 to R199) -/

/-- Settles O23: PACK that passes its checks is StartPack after DONE is cleared. -/
theorem packStartsThePacker : Obligations.PackStartsThePacker := fun _ => exec_pack_of_checks

/-- Settles O24: MUX that passes its checks is StartMux after DONE is cleared. -/
theorem muxStartsTheMultiplexer : Obligations.MuxStartsTheMultiplexer := fun _ => exec_mux_of_checks

/-- Settles O25: ENCODE that passes its checks is StartPack with CHAIN after DONE is cleared. -/
theorem encodeStartsThePackerChained : Obligations.EncodeStartsThePackerChained := fun _ => exec_encode_of_checks

/-! ## Host writes to the buffers and registers (42_commands.md R192, R193, R202) -/

theorem bufferWrite_of_busy (store : State → State) (hb : s.busy = true) : bufferWrite store s = dropWrite s :=
  if_pos hb

theorem bufferWrite_of_idle (store : State → State) (hb : s.busy = false) : bufferWrite store s = store s := by
  simp [bufferWrite, hb]

theorem exec_ifbWr {k : BitVec 18} (hk : k.toNat < 207360) (v : Byte) (s : State) :
    exec (.ifbWr k v) s = .next (bufferWrite (fun u => { u with ifb := u.ifb.write k.toNat v }) s) :=
  if_pos hk

theorem exec_afbWr {k : BitVec 11} (hk : k.toNat < 1960) (v : Byte) (s : State) :
    exec (.afbWr k v) s = .next (bufferWrite (fun u => { u with afb := u.afb.write k.toNat v }) s) :=
  if_pos hk

theorem exec_pvbWr {k : BitVec 15} (hk : k.toNat < 17280) (v : Byte) (s : State) :
    exec (.pvbWr k v) s = .next (bufferWrite id s) :=
  if_pos hk

/-- Settles O16: each write by BUSY, and the store by the laws of a read after a write. -/
theorem bufferWritesStoreOneByte : Obligations.BufferWritesStoreOneByte := by
  refine ⟨fun k v s hk hb => ?_, fun k v s hk hb => ?_, fun k v s hk hb => ?_,
    fun s hb => ⟨fun k v hk => ?_, fun k v hk => ?_, fun k v hk => ?_⟩⟩
  · rw [exec_ifbWr hk, bufferWrite_of_idle _ hb]
    exact ⟨_, rfl, Memory.read_write_same _ _ _, fun a => Memory.read_write_other _ v⟩
  · rw [exec_afbWr hk, bufferWrite_of_idle _ hb]
    exact ⟨_, rfl, Memory.read_write_same _ _ _, fun a => Memory.read_write_other _ v⟩
  · rw [exec_pvbWr hk, bufferWrite_of_idle _ hb]
    rfl
  · rw [exec_ifbWr hk, bufferWrite_of_busy _ hb]
    rfl
  · rw [exec_afbWr hk, bufferWrite_of_busy _ hb]
    rfl
  · rw [exec_pvbWr hk, bufferWrite_of_busy _ hb]
    rfl

/-- A busy block drops every REG_WR but NOP and RESET written to CMD (42_commands.md R192). -/
theorem exec_regWr_of_busy (hb : s.busy = true) {r : BitVec 6} {w : Word}
    (h : ¬ (r = 0#6 ∧ (w = 0x00000000#32 ∨ w = 0x0000000F#32))) : exec (.regWr r w) s = .next (dropWrite s) :=
  congrArg _ (if_pos ⟨hb, fun ⟨hr, hw⟩ => h ⟨BitVec.eq_of_toNat_eq hr, hw⟩⟩)

/-- A busy block drops PACK, MUX and ENCODE (42_commands.md R202). -/
theorem exec_issued_of_busy (hb : s.busy = true) (hi : i = .pack ∨ i = .mux ∨ i = .encode) :
    exec i s = .next (dropWrite s) := by
  rcases hi with rfl | rfl | rfl <;> exact congrArg _ (issueCommand_of_busy _ hb)

/-- Settles O15: dropped writes, issued commands and reads each by the rule of its own access; a refusal comes before
BUSY is looked at. -/
theorem writesWhileBusyAreDropped : Obligations.WritesWhileBusyAreDropped := by
  intro s hb
  obtain ⟨-, -, -, hdrop⟩ := bufferWritesStoreOneByte
  obtain ⟨hifbWr, hafbWr, hpvbWr⟩ := hdrop s hb
  obtain ⟨hifbRd, hafbRd, -⟩ := bufferReadsReturnTheByte s
  exact ⟨fun r w => exec_regWr_of_busy hb, hifbWr, hafbWr, hpvbWr, exec_issued_of_busy hb (by simp),
    exec_issued_of_busy hb (by simp), exec_issued_of_busy hb (by simp), rfl, exec_regWr_nop s, ⟨_, rfl, rfl⟩,
    fun d data rest hs => ⟨step_of_bus_rejected hs, step_of_bus_rejected hs⟩, fun r => ⟨_, rfl⟩, hifbRd,
    hafbRd⟩

/-! ## What the commands keep (42_commands.md R196 to R199) -/

/-- PACK, MUX or ENCODE is dropped, starts its engine, records an error, or only clears DONE. -/
theorem issueCommand_cases (op : CheckedOp) (s : State) :
    let t := issueCommand (checkedStart op (startOf op)) s
    t = dropWrite s ∨ t = startOf op (clearDone s) ∨ (∃ code, t = raiseError code (clearDone s)) ∨ t = clearDone s := by
  dsimp only
  cases hb : s.busy with
  | true => exact .inl (issueCommand_of_busy _ hb)
  | false =>
    rw [issueCommand_of_idle _ hb]
    rcases checkedStart_cases op (startOf op) (clearDone s) with ⟨-, h⟩ | ⟨code, -, h⟩ | ⟨-, h⟩
    · exact .inr (.inl h)
    · exact .inr (.inr (.inl ⟨code, h⟩))
    · exact .inr (.inr (.inr h))

/-- MUX changes nothing but the status flags and MUX_POS (42_commands.md R198). -/
theorem mux_frame (h : exec .mux s = .next t) :
    t = { s with
      busy := t.busy, done := t.done, ovr := t.ovr, err := t.err, engine := t.engine, chain := t.chain
      group := t.group, byte := t.byte } := by
  cases h
  rcases issueCommand_cases .mux s with h | h | ⟨code, h⟩ | h <;> exact h ▸ rfl

/-- PACK and ENCODE change nothing but the status flags and PACK_POS (42_commands.md R197, R199). -/
theorem pack_frame (hi : i = .pack ∨ i = .encode) (h : exec i s = .next t) :
    t = { s with
      busy := t.busy, pvbValid := t.pvbValid, done := t.done, ovr := t.ovr, err := t.err, engine := t.engine
      chain := t.chain, row := t.row, trip := t.trip } := by
  rcases hi with rfl | rfl <;> cases h
  · rcases issueCommand_cases .pack s with h | h | ⟨code, h⟩ | h <;> exact h ▸ rfl
  · rcases issueCommand_cases .encode s with h | h | ⟨code, h⟩ | h <;> exact h ▸ rfl

/-- Settles O26: NOP keeps everything, and the frames of the three commands hold none of these fields. -/
theorem commandsKeepBuffersAndPorts : Obligations.CommandsKeepBuffersAndPorts := by
  intro i s t hi h
  rcases hi with rfl | rfl | rfl | rfl
  · cases h
    simp
  · rw [pack_frame (.inl rfl) h]
    simp
  · rw [mux_frame h]
    simp
  · rw [pack_frame (.inr rfl) h]
    simp

end Sys2Proof.Machine
end

section
/-! SUPPORT. Errors (60_exceptions.md): the checks of the commands in their order (R225), what records an error (R222)
and what keeps it (R223). -/

namespace Sys2Proof.Machine

variable {s t : State} {i : Instr}

/-! ## The checks of the commands (60_exceptions.md R225) -/

/-- The first error that a command written to a block without one records (60_exceptions.md R222). -/
theorem raiseError_clearDone (he : s.err = .none) (code : ErrCode) :
    raiseError code (clearDone s) =
      { s with done := false, err := code, engine := .idle, busy := false, chain := false } := by
  simp [raiseError, clearDone, he]

section Issued

variable {op : CheckedOp} {start : State → State}

/-- A command whose check fails records that check's error and starts nothing. -/
theorem issueCommand_of_raise {code : ErrCode} (hb : s.busy = false) (he : s.err = .none)
    (hc : commandChecks op s = .raise code) :
    issueCommand (checkedStart op start) s =
      { s with done := false, err := code, engine := .idle, busy := false, chain := false } := by
  have hc' : commandChecks op (clearDone s) = .raise code := hc
  simp only [issueCommand_of_idle _ hb, checkedStart, hc', raiseError_clearDone he]

/-- Under a standing error a command only clears DONE (60_exceptions.md R223). -/
theorem issueCommand_of_sticky (hb : s.busy = false) (he : s.err ≠ .none) :
    issueCommand (checkedStart op start) s = clearDone s := by
  have hc : commandChecks op (clearDone s) = .sticky := commandChecks_sticky.2 he
  simp only [issueCommand_of_idle _ hb, checkedStart, hc]

/-- PACK and ENCODE want a whole frame, checked before the audio. -/
theorem commandChecks_frameSize (hop : op = .pack ∨ op = .encode) (he : s.err = .none)
    (hi : s.ifbLen.toNat ≠ 207360) : commandChecks op s = .raise .frameSize := by
  simp [commandChecks, he, hop, hi]

/-- MUX wants a packed frame, checked before the audio. -/
theorem commandChecks_noVideo (he : s.err = .none) (hv : s.pvbValid = false) :
    commandChecks .mux s = .raise .noVideo := by
  simp [commandChecks, he, hv]

/-- MUX and ENCODE, their video found, want a whole frame of audio. -/
theorem commandChecks_audioSize (hop : (op = .mux ∧ s.pvbValid = true) ∨ (op = .encode ∧ s.ifbLen.toNat = 207360))
    (he : s.err = .none) (ha : s.afbLen.toNat ≠ 1960) : commandChecks op s = .raise .audioSize := by
  rcases hop with ⟨rfl, hv⟩ | ⟨rfl, hi⟩
  · simp [commandChecks, he, hv, ha]
  · simp [commandChecks, he, hi, ha]

end Issued

/-- PACK, MUX and ENCODE under a standing error (60_exceptions.md R223). -/
theorem commands_of_sticky (hb : s.busy = false) (he : s.err ≠ .none) :
    exec .pack s = .next (clearDone s) ∧ exec .mux s = .next (clearDone s) ∧ exec .encode s = .next (clearDone s) :=
  ⟨congrArg _ (issueCommand_of_sticky hb he), congrArg _ (issueCommand_of_sticky hb he),
    congrArg _ (issueCommand_of_sticky hb he)⟩

/-- Settles O22: each clause is one result of CommandChecks, and an illegal word is issued without them. -/
theorem commandChecksDecideInOrder : Obligations.CommandChecksDecideInOrder := by
  intro s hb
  dsimp only
  refine ⟨fun he w hw => ?_, fun he => ?_, fun he hi => ?_, fun he hv => ?_, fun he hv ha => ?_, fun he hi ha => ?_,
    fun he hi => ?_, fun he hv ha => ?_, fun he hi ha => ?_⟩
  · rw [exec_regWr_illegal hw, issueCommand_of_idle _ hb, raiseError_clearDone he]
  · exact commands_of_sticky hb he
  · exact ⟨congrArg _ (issueCommand_of_raise hb he <| commandChecks_frameSize (.inl rfl) he hi),
      congrArg _ (issueCommand_of_raise hb he <| commandChecks_frameSize (.inr rfl) he hi)⟩
  · exact congrArg _ (issueCommand_of_raise hb he <| commandChecks_noVideo he hv)
  · exact congrArg _ (issueCommand_of_raise hb he <| commandChecks_audioSize (.inl ⟨rfl, hv⟩) he ha)
  · exact congrArg _ (issueCommand_of_raise hb he <| commandChecks_audioSize (.inr ⟨rfl, hi⟩) he ha)
  · exact ⟨_, exec_pack_of_checks hb he hi, he, rfl⟩
  · exact ⟨_, exec_mux_of_checks hb he hv ha, he, rfl⟩
  · exact ⟨_, exec_encode_of_checks hb he hi ha, he, rfl⟩

/-! ## What changes ERR (60_exceptions.md R222, R223) -/

/-- A checked command keeps ERR or is one `raiseError`. -/
theorem checkedStart_err (op : CheckedOp) (s : State) :
    (checkedStart op (startOf op) s).err = s.err ∨ ∃ code, checkedStart op (startOf op) s = raiseError code s := by
  rcases checkedStart_cases op (startOf op) s with ⟨-, h⟩ | ⟨code, -, h⟩ | ⟨-, h⟩ <;> rw [h]
  · cases op <;> exact .inl rfl
  · exact .inr ⟨code, rfl⟩
  · exact .inl rfl

/-- The emission step keeps ERR or the sink fails, which withdraws the byte (41_frame_multiplexer.md R167). -/
theorem emitStep_err {v : Byte} (h : emitStep v s = .next t) :
    t.err = s.err ∨ ∃ rest, t = raiseError .sink { s with offered := none, sink := rest } := by
  rcases emitStep_cases h with (⟨-, rfl⟩ | ⟨rest, -, rfl⟩) | ⟨rest, -, rfl⟩ | ⟨rest, -, rfl⟩
  · exact .inl rfl
  · exact .inl rfl
  · exact .inl (muxAdvance_err _)
  · exact .inr ⟨rest, rfl⟩

/-- What can change ERR: a reset, a command written to an idle block, and a failing sink. -/
theorem effect_err (e : Effect s i t) :
    t.err = s.err ∨ ((i = .reset ∨ i = .regWr 0#6 0x0000000F#32) ∧ t = resetBlock s) ∨
    (s.busy = false ∧ ∃ code, t = raiseError code (clearDone s)) ∨
    (s.engine = .multiplexer ∧ ∃ rest, t = raiseError .sink { s with offered := none, sink := rest }) := by
  cases e with
  | reset hi => exact .inr (.inl ⟨hi, rfl⟩)
  | command op hb => exact (checkedStart_err op (clearDone s)).imp_right fun h => .inr (.inl ⟨hb, h⟩)
  | illegal hb => exact .inr (.inr (.inl ⟨hb, _, rfl⟩))
  | packed _ _ hs =>
    obtain ⟨-, -, p, -, rfl⟩ := packTriplet_cases hs
    exact .inl (packAdvance_err _)
  | emitted v he _ hs => exact (emitStep_err hs).imp_right fun h => .inr (.inr ⟨he, h⟩)
  | _ => exact .inl rfl

/-- But for a reset, a nonzero ERR is kept. -/
theorem effect_keeps_nonzero_err (e : Effect s i t) (hn : ¬ (i = .reset ∨ i = .regWr 0#6 0x0000000F#32))
    (he : s.err ≠ .none) : t.err = s.err := by
  rcases effect_err e with h | ⟨hi, -⟩ | ⟨-, code, rfl⟩ | ⟨-, rest, rfl⟩
  · exact h
  · exact absurd hi hn
  · simp [he]
  · simp [he]

/-- Settles O27: a first error is a command's in an idle block, which offers no byte, or a failing sink's in a running
one, whose DONE is 0. -/
theorem errorsStopTheBlockAndNothingElse : Obligations.ErrorsStopTheBlockAndNothingElse := by
  intro i s t h hs he ht
  rcases effect_err (exec_effect hs) with hk | ⟨-, rfl⟩ | ⟨hb, code, rfl⟩ | ⟨hm, rest, rfl⟩
  · exact absurd (hk.trans he) ht
  · exact absurd rfl ht
  · have ho : s.offered = none := h.offered_eq_none (by simp [h.engine_eq_idle hb])
    simp [raiseError, clearDone, he, ho]
  · have hd : s.done = false := h.busy_not_done (h.busy_eq_true (by simp [hm]))
    simp [raiseError, he, hd]

/-- Settles O28: the commands meet the sticky check, and but for a reset every effect keeps a nonzero ERR. -/
theorem errorsAreSticky : Obligations.ErrorsAreSticky := by
  refine ⟨fun s he hb => commands_of_sticky hb he, fun s t he hs => ⟨fun hr => ?_, fun hn => ?_⟩⟩
  · obtain ⟨rest, h⟩ := step_of_resetsNext hr
    cases hs.symm.trans h
    rfl
  · obtain ⟨i, rest, e, hi⟩ := step_effect_of_not_reset hs hn
    exact effect_keeps_nonzero_err (s := { s with inputs := rest }) e hi he

end Sys2Proof.Machine
end
